-- ==== Sys2Proof/Word.lean ====
section
/-! DEFINITION. The words the machine computes with: bytes, 16-bit words, register and key numbers, and the
framebuffer's grid. Types only; every computation on them stands in Decode.lean or under Machine/. -/

namespace Sys2Proof

/-- An 8-bit value: a general register, a timer, a cell of memory (10_state.md R13, R19; 20_memory.md R28). -/
abbrev Byte := BitVec 8

/-- A 16-bit value: an instruction word, I, PC, a stack slot (30_encoding.md R43; 10_state.md R16 to R18). -/
abbrev Word := BitVec 16

/-- The number of a general register, V0 to VF: a 4-bit field, so always in range (10_state.md R13). -/
abbrev Reg := Fin 16

/-- The number of a key, 0 to 15 (10_state.md R22). -/
abbrev Key := Fin 16

/-- The framebuffer: 32 rows, row 0 at the top, of 64 pixels, column 0 at the left (10_state.md R20). -/
abbrev Framebuffer := Vector (Vector Bool 64) 32

end Sys2Proof
end

