-- ==== Sys2Proof/Config.lean ====
section
/-! DEFINITION. What is fixed for this hardware (the named parameters of 00_scope.md R5 and R6) and the free
values: the inputs the host drives, the state after a fatal error, and the port values the spec calls any value. -/

namespace Sys2Proof

/-- FLAG_WRITE_ORDER (00_scope.md R6, D5): whether the flag or the result lands last when both go to VF. -/
inductive FlagWriteOrder where
  | flagLast
  | flagFirst
deriving DecidableEq, Repr

/-- SHIFT_SOURCE (00_scope.md R6, D6): which register 8XY6 and 8XYE shift. -/
inductive ShiftSource where
  | vy
  | vx
deriving DecidableEq, Repr

/-- FX1E_VF_NO_OVERFLOW (00_scope.md R6, D7): what FX1E does to VF when there is no overflow. -/
inductive NoOverflowFlag where
  | clear
  | unchanged
deriving DecidableEq, Repr

/-- FONT_DIGIT_MASK (00_scope.md R6, D8): whether FX29 reduces its digit to the low nibble. -/
inductive FontDigitMask where
  | none
  | lowNibble
deriving DecidableEq, Repr

/-- KEYWAIT_PICK (00_scope.md R6, D11): which of several pressed keys FX0A stores. -/
inductive KeywaitPick where
  | lowest
  | any
deriving DecidableEq, Repr

/-- The named parameters of 00_scope.md R6 and the font of 20_memory.md R36. -/
structure Params where
  decodeStrict     : Bool
  flagWriteOrder   : FlagWriteOrder
  shiftSource      : ShiftSource
  fx1eNoOverflow   : NoOverflowFlag
  fontDigitMask    : FontDigitMask
  keywaitTicks     : Bool
  keywaitPick      : KeywaitPick
  font             : List Byte
deriving DecidableEq, Repr

/-- What the host drives for one cycle, sampled at its start (40_cycle.md R52, R59): the key vector, bit k set iff
key k is pressed; the random byte; and whether dirty_clear is pulsed before the cycle (D28). -/
structure CycleInput where
  keys       : BitVec 16
  rand8      : Byte
  dirtyClear : Bool
deriving DecidableEq, Repr, Inhabited

/-- Every element of the state that 60_exceptions.md R101 leaves unspecified after a fatal error; `mem` gives the byte
at each address. (The type of a free value, no part of State.) -/
structure PostFault where
  v     : Vector Byte 16
  i     : Word
  stack : Vector Word 16
  sp    : Fin 17
  dt    : Byte
  st    : Byte
  mem   : Nat → Byte
  fb    : Framebuffer
  dirty : Bool
deriving Inhabited

/-- The address the program is loaded at and execution starts from, PROGRAM_BASE (00_scope.md R5; C4, D17). -/
def Config.programBase : Nat := 0x200

/-- The address of the font's first byte, FONT_BASE (00_scope.md R5). -/
def Config.fontBase : Nat := 0x000

/-- Glyphs 0 to 7 of the font, five rows each, top row first (20_memory.md R36; UNVERIFIED, entry 8: the spec takes the
bytes from general knowledge, D16, K4). -/
def Config.fontLow : List Byte :=
  [0xF0, 0x90, 0x90, 0x90, 0xF0] ++ [0x20, 0x60, 0x20, 0x20, 0x70] ++
  [0xF0, 0x10, 0xF0, 0x80, 0xF0] ++ [0xF0, 0x10, 0xF0, 0x10, 0xF0] ++
  [0x90, 0x90, 0xF0, 0x10, 0x10] ++ [0xF0, 0x80, 0xF0, 0x10, 0xF0] ++
  [0xF0, 0x80, 0xF0, 0x90, 0xF0] ++ [0xF0, 0x10, 0x20, 0x40, 0x40]

/-- Glyphs 8 to F of the font (20_memory.md R36; UNVERIFIED, entry 8). -/
def Config.fontHigh : List Byte :=
  [0xF0, 0x90, 0xF0, 0x90, 0xF0] ++ [0xF0, 0x90, 0xF0, 0x10, 0xF0] ++
  [0xF0, 0x90, 0xF0, 0x90, 0x90] ++ [0xE0, 0x90, 0xE0, 0x90, 0xE0] ++
  [0xF0, 0x80, 0x80, 0x80, 0xF0] ++ [0xE0, 0x90, 0x90, 0x90, 0xE0] ++
  [0xF0, 0x80, 0xF0, 0x80, 0xF0] ++ [0xF0, 0x80, 0xF0, 0x80, 0x80]

/-- The parameter values the spec gives this hardware (00_scope.md R6; UNVERIFIED, entry 9: the spec's own decisions
D4 to D8, D10, D11). -/
def Config.params : Params where
  decodeStrict   := false
  flagWriteOrder := .flagLast
  shiftSource    := .vy
  fx1eNoOverflow := .clear
  fontDigitMask  := .none
  keywaitTicks   := false
  keywaitPick    := .lowest
  font           := Config.fontLow ++ Config.fontHigh

/-- FREE VALUE: what the host drives for the cycle of this number when the script of inputs in the state has run out
(10_state.md R22, 44_random.md R83; entry 1). -/
opaque Config.hostInput : Nat → CycleInput

/-- FREE VALUE: the unspecified elements of the state after a fatal error in the cycle of this number
(60_exceptions.md R101; entry 3). -/
opaque Config.afterFault : Nat → PostFault

/-- FREE VALUE: which pressed key FX0A takes in the cycle of this number where KEYWAIT_PICK is `any`
(93_implementation_defined.md U17; entry 16). This hardware does not use it. -/
opaque Config.keyPick : Nat → Nat

/-- FREE VALUE: the info_op port where no word was fetched (93_implementation_defined.md U7; entry 17). -/
opaque Config.noFetchInfoOp : Nat → Word

/-- FREE VALUE: the fault_addr port for a fault that has no address (93_implementation_defined.md U8; entry 17). -/
opaque Config.noFaultAddr : Nat → Nat

end Sys2Proof
end

