-- ==== Sys2Proof/Syntax.lean ====
section
/-! DEFINITION. The instructions: one constructor for each of the 35 rows of spec/opcode_table.json, in the table's
order (30_encoding.md R47). A field that the row ignores is kept (entry 11), so that the instruction still holds its
whole word. -/

namespace Sys2Proof

/-- One CHIP-8 instruction, as decoded (30_encoding.md R43, R44, R47). -/
inductive Instr where
  /-- 0NNN, a no-op; NNN is ignored (R62). -/
  | sys (nnn : BitVec 12)
  /-- 0XE0, clear the framebuffer; X is ignored, and 0 in CLS as an assembler writes it (R96). -/
  | cls (x : Reg)
  /-- 0XEE, return; X is ignored, and 0 in RET as an assembler writes it (R63). -/
  | ret (x : Reg)
  /-- 1NNN, jump (R64). -/
  | jp (nnn : BitVec 12)
  /-- 2NNN, call (R65). -/
  | call (nnn : BitVec 12)
  /-- 3XNN, skip if V[X] = NN (R66). -/
  | seImm (x : Reg) (nn : Byte)
  /-- 4XNN, skip if V[X] ≠ NN (R67). -/
  | sneImm (x : Reg) (nn : Byte)
  /-- 5XYN, skip if V[X] = V[Y]; N is ignored (R68). -/
  | seReg (x y : Reg) (n : BitVec 4)
  /-- 6XNN, set a register to a literal (R71). -/
  | ldImm (x : Reg) (nn : Byte)
  /-- 7XNN, add a literal, no flag (R72). -/
  | addImm (x : Reg) (nn : Byte)
  /-- 8XY0, copy a register (R73). -/
  | ldReg (x y : Reg)
  /-- 8XY1, bitwise or (R74). -/
  | orReg (x y : Reg)
  /-- 8XY2, bitwise and (R75). -/
  | andReg (x y : Reg)
  /-- 8XY3, bitwise exclusive or (R76). -/
  | xorReg (x y : Reg)
  /-- 8XY4, add with carry (R77). -/
  | addReg (x y : Reg)
  /-- 8XY5, subtract, VF = NOT borrow (R78). -/
  | sub (x y : Reg)
  /-- 8XY6, shift right by one (R80). -/
  | shr (x y : Reg)
  /-- 8XY7, reverse subtract (R79). -/
  | subn (x y : Reg)
  /-- 8XYE, shift left by one (R81). -/
  | shl (x y : Reg)
  /-- 9XYN, skip if V[X] ≠ V[Y]; N is ignored (R69). -/
  | sneReg (x y : Reg) (n : BitVec 4)
  /-- ANNN, set I (R84). -/
  | ldI (nnn : BitVec 12)
  /-- BNNN, jump to NNN + V0 (R70). -/
  | jpV0 (nnn : BitVec 12)
  /-- CXNN, random byte masked (R83). -/
  | rnd (x : Reg) (nn : Byte)
  /-- DXYN, draw a sprite of N rows (R97). -/
  | drw (x y : Reg) (n : BitVec 4)
  /-- EX9E, skip if key V[X] is pressed (R94). -/
  | skp (x : Reg)
  /-- EXA1, skip if key V[X] is not pressed (R95). -/
  | sknp (x : Reg)
  /-- FX07, read the delay timer (R90). -/
  | ldVxDt (x : Reg)
  /-- FX0A, wait for a key (R93). -/
  | ldVxK (x : Reg)
  /-- FX15, set the delay timer (R91). -/
  | ldDtVx (x : Reg)
  /-- FX18, set the sound timer (R92). -/
  | ldStVx (x : Reg)
  /-- FX1E, add a register to I (R85). -/
  | addI (x : Reg)
  /-- FX29, point I at a font glyph (R86). -/
  | ldF (x : Reg)
  /-- FX33, store the decimal digits (R87). -/
  | ldB (x : Reg)
  /-- FX55, store V0 to VX (R88). -/
  | ldMemVx (x : Reg)
  /-- FX65, load V0 to VX (R89). -/
  | ldVxMem (x : Reg)
deriving DecidableEq, Repr

end Sys2Proof
end

