-- ==== Sys2Proof/WellFormed.lean ====
section
/-! DEFINITION. Which instruction terms stand for a word of their own row: the checks under which decoding an encoded
instruction gives it back (30_encoding.md R46, R48, for both values of DECODE_STRICT). -/

namespace Sys2Proof

/-- The 0NNN word with this NNN is a SYS and neither CLS nor RET: not strict, its low byte is neither 0xE0 nor 0xEE;
strict, it is not one of the two words 00E0 and 00EE (30_encoding.md R46, R48). -/
def sysField (p : Params) (nnn : BitVec 12) : Bool :=
  if p.decodeStrict then nnn.toNat != 0x0E0 && nnn.toNat != 0x0EE
  else nnn.toNat % 256 != 0xE0 && nnn.toNat % 256 != 0xEE

/-- An ignored field is any value when decoding is not strict, and 0 when it is (30_encoding.md R46). -/
def ignoredField (p : Params) (value : Nat) : Bool :=
  !p.decodeStrict || value == 0

/-- The instruction is one its own word decodes to under `p`. -/
def Instr.wellFormedWith (p : Params) : Instr → Bool
  | .sys nnn => sysField p nnn
  | .cls x => ignoredField p x.val
  | .ret x => ignoredField p x.val
  | .seReg _ _ n => ignoredField p n.toNat
  | .sneReg _ _ n => ignoredField p n.toNat
  | .jp _ => true
  | .call _ => true
  | .seImm _ _ => true
  | .sneImm _ _ => true
  | .ldImm _ _ => true
  | .addImm _ _ => true
  | .ldReg _ _ => true
  | .orReg _ _ => true
  | .andReg _ _ => true
  | .xorReg _ _ => true
  | .addReg _ _ => true
  | .sub _ _ => true
  | .shr _ _ => true
  | .subn _ _ => true
  | .shl _ _ => true
  | .ldI _ => true
  | .jpV0 _ => true
  | .rnd _ _ => true
  | .drw _ _ _ => true
  | .skp _ => true
  | .sknp _ => true
  | .ldVxDt _ => true
  | .ldVxK _ => true
  | .ldDtVx _ => true
  | .ldStVx _ => true
  | .addI _ => true
  | .ldF _ => true
  | .ldB _ => true
  | .ldMemVx _ => true
  | .ldVxMem _ => true

/-- Well-formed on this hardware. -/
def Instr.wellFormed (i : Instr) : Bool :=
  i.wellFormedWith Config.params

end Sys2Proof
end

