-- ==== Sys2Proof/Decode.lean ====
section
/-! DEFINITION. The decoder, total on all 65536 words (30_encoding.md R46); the encoder, written from the same fields
(R43, R47); and the opcode table as masks and matches (R47, R48), a second description the decoder is compared with. -/

namespace Sys2Proof

/-- The instruction word of two consecutive bytes, the first the high byte (20_memory.md R30, R31). -/
def wordOfBytes (first second : Byte) : Word :=
  BitVec.ofNat 16 (first.toNat * 256 + second.toNat)

/-- The byte of a word that lies at the lower address (20_memory.md R31). -/
def firstByte (op : Word) : Byte :=
  BitVec.ofNat 8 (op.toNat / 256)

/-- The byte of a word that lies at the higher address. -/
def secondByte (op : Word) : Byte :=
  BitVec.ofNat 8 op.toNat

/-- g = op[15:12], the primary group (30_encoding.md R43). -/
def fieldG (op : Word) : Nat := op.toNat / 4096

/-- X = op[11:8]. -/
def fieldX (op : Word) : Reg := ⟨op.toNat / 256 % 16, Nat.mod_lt _ (by decide)⟩

/-- Y = op[7:4]. -/
def fieldY (op : Word) : Reg := ⟨op.toNat / 16 % 16, Nat.mod_lt _ (by decide)⟩

/-- N = op[3:0]. -/
def fieldN (op : Word) : BitVec 4 := BitVec.ofNat 4 op.toNat

/-- NN = op[7:0]. -/
def fieldNN (op : Word) : Byte := BitVec.ofNat 8 op.toNat

/-- NNN = op[11:0]. -/
def fieldNNN (op : Word) : BitVec 12 := BitVec.ofNat 12 op.toNat

/-- What a word decodes to: one of the 35 instructions, or Unknown, which names the word (30_encoding.md R46, R49). -/
inductive Decoded where
  | instr (i : Instr)
  | unknown (op : Word)
deriving DecidableEq, Repr

/-- Group 0 (30_encoding.md R46): CLS, RET or SYS; strict, on the whole word; else on the low byte. -/
def decodeGroup0 (p : Params) (op : Word) : Decoded :=
  if p.decodeStrict then
    if op.toNat = 0x00E0 then .instr (.cls (fieldX op))
    else if op.toNat = 0x00EE then .instr (.ret (fieldX op))
    else .instr (.sys (fieldNNN op))
  else
    if (fieldNN op).toNat = 0xE0 then .instr (.cls (fieldX op))
    else if (fieldNN op).toNat = 0xEE then .instr (.ret (fieldX op))
    else .instr (.sys (fieldNNN op))

/-- Groups 5 and 9 (30_encoding.md R46): strict, N must be 0. -/
def decodeIgnoringN (p : Params) (op : Word) (i : Instr) : Decoded :=
  if p.decodeStrict && (fieldN op).toNat != 0 then .unknown op else .instr i

/-- Group 8, on the low nibble (30_encoding.md R46). -/
def decodeGroup8 (op : Word) : Decoded :=
  let n := (fieldN op).toNat
  if n = 0x0 then .instr (.ldReg (fieldX op) (fieldY op))
  else if n = 0x1 then .instr (.orReg (fieldX op) (fieldY op))
  else if n = 0x2 then .instr (.andReg (fieldX op) (fieldY op))
  else if n = 0x3 then .instr (.xorReg (fieldX op) (fieldY op))
  else if n = 0x4 then .instr (.addReg (fieldX op) (fieldY op))
  else if n = 0x5 then .instr (.sub (fieldX op) (fieldY op))
  else if n = 0x6 then .instr (.shr (fieldX op) (fieldY op))
  else if n = 0x7 then .instr (.subn (fieldX op) (fieldY op))
  else if n = 0xE then .instr (.shl (fieldX op) (fieldY op))
  else .unknown op

/-- Group E, on the low byte (30_encoding.md R46). -/
def decodeGroupE (op : Word) : Decoded :=
  let nn := (fieldNN op).toNat
  if nn = 0x9E then .instr (.skp (fieldX op))
  else if nn = 0xA1 then .instr (.sknp (fieldX op))
  else .unknown op

/-- Group F, on the low byte (30_encoding.md R46). -/
def decodeGroupF (op : Word) : Decoded :=
  let nn := (fieldNN op).toNat
  if nn = 0x07 then .instr (.ldVxDt (fieldX op))
  else if nn = 0x0A then .instr (.ldVxK (fieldX op))
  else if nn = 0x15 then .instr (.ldDtVx (fieldX op))
  else if nn = 0x18 then .instr (.ldStVx (fieldX op))
  else if nn = 0x1E then .instr (.addI (fieldX op))
  else if nn = 0x29 then .instr (.ldF (fieldX op))
  else if nn = 0x33 then .instr (.ldB (fieldX op))
  else if nn = 0x55 then .instr (.ldMemVx (fieldX op))
  else if nn = 0x65 then .instr (.ldVxMem (fieldX op))
  else .unknown op

/-- Decode(op) under the parameters `p` (30_encoding.md R46; bit patterns UNVERIFIED, entry 10). -/
def decodeWith (p : Params) (op : Word) : Decoded :=
  let g := fieldG op
  if g = 0x0 then decodeGroup0 p op
  else if g = 0x1 then .instr (.jp (fieldNNN op))
  else if g = 0x2 then .instr (.call (fieldNNN op))
  else if g = 0x3 then .instr (.seImm (fieldX op) (fieldNN op))
  else if g = 0x4 then .instr (.sneImm (fieldX op) (fieldNN op))
  else if g = 0x5 then decodeIgnoringN p op (.seReg (fieldX op) (fieldY op) (fieldN op))
  else if g = 0x6 then .instr (.ldImm (fieldX op) (fieldNN op))
  else if g = 0x7 then .instr (.addImm (fieldX op) (fieldNN op))
  else if g = 0x8 then decodeGroup8 op
  else if g = 0x9 then decodeIgnoringN p op (.sneReg (fieldX op) (fieldY op) (fieldN op))
  else if g = 0xA then .instr (.ldI (fieldNNN op))
  else if g = 0xB then .instr (.jpV0 (fieldNNN op))
  else if g = 0xC then .instr (.rnd (fieldX op) (fieldNN op))
  else if g = 0xD then .instr (.drw (fieldX op) (fieldY op) (fieldN op))
  else if g = 0xE then decodeGroupE op
  else decodeGroupF op

/-- Decode(op) on this hardware. -/
def decode (op : Word) : Decoded :=
  decodeWith Config.params op

/-- The word of two bytes as they lie in memory, decoded. -/
def decodeBytes (first second : Byte) : Decoded :=
  decode (wordOfBytes first second)

/-- A word of the form gNNN (30_encoding.md R43). -/
def wordNNN (g : Nat) (nnn : BitVec 12) : Word :=
  BitVec.ofNat 16 (g * 4096 + nnn.toNat)

/-- A word of the form gXNN. -/
def wordXNN (g : Nat) (x : Reg) (nn : Byte) : Word :=
  BitVec.ofNat 16 (g * 4096 + x.val * 256 + nn.toNat)

/-- A word of the form gXYN. -/
def wordXYN (g : Nat) (x y : Reg) (n : BitVec 4) : Word :=
  BitVec.ofNat 16 (g * 4096 + x.val * 256 + y.val * 16 + n.toNat)

/-- The word of an instruction (30_encoding.md R47). -/
def encode : Instr → Word
  | .sys nnn => wordNNN 0x0 nnn
  | .cls x => wordXNN 0x0 x 0xE0
  | .ret x => wordXNN 0x0 x 0xEE
  | .jp nnn => wordNNN 0x1 nnn
  | .call nnn => wordNNN 0x2 nnn
  | .seImm x nn => wordXNN 0x3 x nn
  | .sneImm x nn => wordXNN 0x4 x nn
  | .seReg x y n => wordXYN 0x5 x y n
  | .ldImm x nn => wordXNN 0x6 x nn
  | .addImm x nn => wordXNN 0x7 x nn
  | .ldReg x y => wordXYN 0x8 x y 0x0
  | .orReg x y => wordXYN 0x8 x y 0x1
  | .andReg x y => wordXYN 0x8 x y 0x2
  | .xorReg x y => wordXYN 0x8 x y 0x3
  | .addReg x y => wordXYN 0x8 x y 0x4
  | .sub x y => wordXYN 0x8 x y 0x5
  | .shr x y => wordXYN 0x8 x y 0x6
  | .subn x y => wordXYN 0x8 x y 0x7
  | .shl x y => wordXYN 0x8 x y 0xE
  | .sneReg x y n => wordXYN 0x9 x y n
  | .ldI nnn => wordNNN 0xA nnn
  | .jpV0 nnn => wordNNN 0xB nnn
  | .rnd x nn => wordXNN 0xC x nn
  | .drw x y n => wordXYN 0xD x y n
  | .skp x => wordXNN 0xE x 0x9E
  | .sknp x => wordXNN 0xE x 0xA1
  | .ldVxDt x => wordXNN 0xF x 0x07
  | .ldVxK x => wordXNN 0xF x 0x0A
  | .ldDtVx x => wordXNN 0xF x 0x15
  | .ldStVx x => wordXNN 0xF x 0x18
  | .addI x => wordXNN 0xF x 0x1E
  | .ldF x => wordXNN 0xF x 0x29
  | .ldB x => wordXNN 0xF x 0x33
  | .ldMemVx x => wordXNN 0xF x 0x55
  | .ldVxMem x => wordXNN 0xF x 0x65

/-- The decoder on an instruction numbered as spec/opcode_table.json numbers it: one 16-bit word, bit 0 its least
significant bit, laid out high byte first and decoded; bits above `nbits` are 0. -/
def decodeTableWord (nbits w : Nat) : Option Instr :=
  let op : Word := BitVec.ofNat 16 (w % 2 ^ nbits)
  match decodeBytes (firstByte op) (secondByte op) with
  | .instr i => some i
  | .unknown _ => none

/-- One row of the opcode table: a word matches when its bits under `mask` are `value` (30_encoding.md R47). -/
structure TableRow where
  mnemonic : String
  mask     : Word
  value    : Word
deriving DecidableEq, Repr

/-- The row of the opcode table an instruction belongs to, with the mask and match of DECODE_STRICT = false
(30_encoding.md R47, spec/opcode_table.json). -/
def rowOf : Instr → TableRow
  | .sys _ => ⟨"SYS", 0xF000, 0x0000⟩
  | .cls _ => ⟨"CLS", 0xF0FF, 0x00E0⟩
  | .ret _ => ⟨"RET", 0xF0FF, 0x00EE⟩
  | .jp _ => ⟨"JP", 0xF000, 0x1000⟩
  | .call _ => ⟨"CALL", 0xF000, 0x2000⟩
  | .seImm _ _ => ⟨"SE_imm", 0xF000, 0x3000⟩
  | .sneImm _ _ => ⟨"SNE_imm", 0xF000, 0x4000⟩
  | .seReg _ _ _ => ⟨"SE_reg", 0xF000, 0x5000⟩
  | .ldImm _ _ => ⟨"LD_imm", 0xF000, 0x6000⟩
  | .addImm _ _ => ⟨"ADD_imm", 0xF000, 0x7000⟩
  | .ldReg _ _ => ⟨"LD_reg", 0xF00F, 0x8000⟩
  | .orReg _ _ => ⟨"OR", 0xF00F, 0x8001⟩
  | .andReg _ _ => ⟨"AND", 0xF00F, 0x8002⟩
  | .xorReg _ _ => ⟨"XOR", 0xF00F, 0x8003⟩
  | .addReg _ _ => ⟨"ADD_reg", 0xF00F, 0x8004⟩
  | .sub _ _ => ⟨"SUB", 0xF00F, 0x8005⟩
  | .shr _ _ => ⟨"SHR", 0xF00F, 0x8006⟩
  | .subn _ _ => ⟨"SUBN", 0xF00F, 0x8007⟩
  | .shl _ _ => ⟨"SHL", 0xF00F, 0x800E⟩
  | .sneReg _ _ _ => ⟨"SNE_reg", 0xF000, 0x9000⟩
  | .ldI _ => ⟨"LD_I", 0xF000, 0xA000⟩
  | .jpV0 _ => ⟨"JP_V0", 0xF000, 0xB000⟩
  | .rnd _ _ => ⟨"RND", 0xF000, 0xC000⟩
  | .drw _ _ _ => ⟨"DRW", 0xF000, 0xD000⟩
  | .skp _ => ⟨"SKP", 0xF0FF, 0xE09E⟩
  | .sknp _ => ⟨"SKNP", 0xF0FF, 0xE0A1⟩
  | .ldVxDt _ => ⟨"LD_Vx_DT", 0xF0FF, 0xF007⟩
  | .ldVxK _ => ⟨"LD_Vx_K", 0xF0FF, 0xF00A⟩
  | .ldDtVx _ => ⟨"LD_DT_Vx", 0xF0FF, 0xF015⟩
  | .ldStVx _ => ⟨"LD_ST_Vx", 0xF0FF, 0xF018⟩
  | .addI _ => ⟨"ADD_I", 0xF0FF, 0xF01E⟩
  | .ldF _ => ⟨"LD_F", 0xF0FF, 0xF029⟩
  | .ldB _ => ⟨"LD_B", 0xF0FF, 0xF033⟩
  | .ldMemVx _ => ⟨"LD_mem_Vx", 0xF0FF, 0xF055⟩
  | .ldVxMem _ => ⟨"LD_Vx_mem", 0xF0FF, 0xF065⟩

/-- The rows of priority 1, then SYS, the one row of priority 0 (30_encoding.md R47, R48). -/
def opcodeTable : List TableRow :=
  [rowOf (.cls 0), rowOf (.ret 0), rowOf (.jp 0), rowOf (.call 0), rowOf (.seImm 0 0), rowOf (.sneImm 0 0),
   rowOf (.seReg 0 0 0), rowOf (.ldImm 0 0), rowOf (.addImm 0 0), rowOf (.ldReg 0 0), rowOf (.orReg 0 0),
   rowOf (.andReg 0 0)] ++
  [rowOf (.xorReg 0 0), rowOf (.addReg 0 0), rowOf (.sub 0 0), rowOf (.shr 0 0), rowOf (.subn 0 0), rowOf (.shl 0 0),
   rowOf (.sneReg 0 0 0), rowOf (.ldI 0), rowOf (.jpV0 0), rowOf (.rnd 0 0), rowOf (.drw 0 0 0), rowOf (.skp 0)] ++
  [rowOf (.sknp 0), rowOf (.ldVxDt 0), rowOf (.ldVxK 0), rowOf (.ldDtVx 0), rowOf (.ldStVx 0), rowOf (.addI 0),
   rowOf (.ldF 0), rowOf (.ldB 0), rowOf (.ldMemVx 0), rowOf (.ldVxMem 0)] ++
  [rowOf (.sys 0)]

/-- Table lookup (30_encoding.md R48): the first row in order of priority that the word matches. -/
def lookup (op : Word) : Option TableRow :=
  opcodeTable.find? fun r => op &&& r.mask == r.value

end Sys2Proof
end

