-- ==== Sys2Proof/Machine/State.lean ====
section
/-! DEFINITION. The machine's state (10_state.md), the fault record, the statuses, the reasons a step can stop, and
the state after reset. -/

namespace Sys2Proof.Machine

/-- Memory: the cells that differ from what an unlisted address reads as, addresses strictly rising
(20_memory.md R28; the form is `Memory.wf`, entry 15). -/
abbrev Memory := List Host.Cell

/-- The record of a fatal error of a cycle: its kind, the PC of the faulting instruction, the fetched word where one
was fetched, and the offending address or key index (60_exceptions.md R99, R100). -/
inductive FaultRecord where
  /-- The fetch with PC + 1 > 0xFFF (20_memory.md R30); no word was fetched. -/
  | fetchOutOfRange (pc : Word)
  /-- CALL with SP = 16 (41_control_flow.md R65). -/
  | stackOverflow (pc op : Word)
  /-- RET with SP = 0 (41_control_flow.md R63). -/
  | stackUnderflow (pc op : Word)
  /-- A memory access at an address ≥ 4096, or a key index ≥ 16 (20_memory.md R29; 46_timers_keys.md R94, R95). -/
  | outOfRange (pc op : Word) (index : Nat)
deriving DecidableEq, Repr

/-- `status` (10_state.md R23). -/
inductive RunStatus where
  | running
  | faulted (record : FaultRecord)
deriving DecidableEq, Repr

/-- status_out with the data that is valid with it (40_cycle.md R51, R59). -/
inductive CycleStatus where
  /-- No cycle has run since reset, so the port is not valid (entry 2). -/
  | noCycle
  | executed
  | unknownOpcode (pc op : Word)
  | awaitingInput
  | fatal (record : FaultRecord)
deriving DecidableEq, Repr

/-- Where the session stands with its program (20_memory.md R42; 70_reset_and_hazards.md R115; entry 5). -/
inductive LoadStatus where
  /-- Reset, and no image loaded yet. -/
  | awaitingImage
  /-- An image was loaded: cycles may run. -/
  | loaded
  /-- ProgramTooLarge, with the image's length: execution never starts. -/
  | tooLarge (length : Nat)
deriving DecidableEq, Repr

/-- The reasons the machine stops. -/
inductive Fault where
  /-- Raised by `step` in status Faulted: no cycle runs there, only reset leaves it (40_cycle.md R56; U9). Safe: it has
  no next state where the hardware has none (entry 4). -/
  | faultedStatus
deriving DecidableEq, Repr

/-- The reasons a step or a host move has no meaning. -/
inductive Refusal where
  /-- Raised by an arm of `exec` whose instruction has no meaning yet. Safe. No arm of this model raises it. -/
  | notModelled (mnemonic : String)
  /-- Raised by `step` before a program is loaded, or after ProgramTooLarge: the core does not start execution
  (20_memory.md R42; U10). Safe (entry 5). -/
  | notLoaded
  /-- Raised by `hostLoad` when the spec gives the host no such move: once a cycle has run (20_memory.md R41; 40_cycle.md
  R60; U11), or after ProgramTooLarge, when execution never starts (20_memory.md R42). Safe for the core; entry 6 says
  what it leaves out. -/
  | noHostMove
deriving DecidableEq, Repr

/-- The whole state of the block (10_state.md, opening table), the outputs of the cycle just ended (40_cycle.md R59),
the loader's status, and the model's own script of inputs and cycle counter (entry 1). -/
structure State where
  /-- V[0..15], V0 to VF (10_state.md R13, R15). -/
  v         : Vector Byte 16
  /-- I (R16). -/
  i         : Word
  /-- PC (R17). -/
  pc        : Word
  /-- stack[0..15] (R18). -/
  stack     : Vector Word 16
  /-- SP, how many slots are occupied (R18). -/
  sp        : Fin 17
  /-- DT (R19). -/
  dt        : Byte
  /-- ST (R19). -/
  st        : Byte
  /-- mem[0..4095] (20_memory.md R28). -/
  mem       : Memory
  /-- FB[0..31][0..63] (R20). -/
  fb        : Framebuffer
  /-- The redraw flag (R21). -/
  dirty     : Bool
  /-- Running or Faulted (R23). -/
  status    : RunStatus
  /-- status_out, info_pc, info_op, fault_kind and fault_addr of the cycle just ended (40_cycle.md R59; entry 2). -/
  statusOut : CycleStatus
  /-- beep of the cycle just ended (40_cycle.md R57, R59). -/
  beep      : Bool
  /-- What the loader has done (20_memory.md R42; entry 5). -/
  load      : LoadStatus
  /-- The model's own: what the host drives in the coming cycles, the next cycle first (entry 1). -/
  inputs    : List CycleInput
  /-- The model's own: the number of the next cycle, which the free values are applied to (entry 1). -/
  cycle     : Nat
deriving DecidableEq, Repr

/-- The state after reset (10_state.md R27; 70_reset_and_hazards.md R114). The values of v, stack, fb and dirty are the
spec's own decision D15 (UNVERIFIED, entry 7); statusOut, load, inputs and cycle are the model's (DESIGN CHOICE,
entries 1, 2, 5). Memory lists nothing: every address reads as its reset contents (20_memory.md R35, R36). -/
def State.reset : State where
  v         := Vector.replicate 16 0
  i         := 0
  pc        := BitVec.ofNat 16 Config.programBase
  stack     := Vector.replicate 16 0
  sp        := 0
  dt        := 0
  st        := 0
  mem       := []
  fb        := Vector.replicate 32 (Vector.replicate 64 false)
  dirty     := false
  status    := .running
  statusOut := .noCycle
  beep      := false
  load      := .awaitingImage
  inputs    := []
  cycle     := 0

end Sys2Proof.Machine
end

