-- ==== Sys2Proof/Machine/Ops.lean ====
section
/-! DEFINITION. The named operations over memory, registers, the stack, the framebuffer and the program counter, and
the one operation that takes a fatal error (60_exceptions.md R100). -/

namespace Sys2Proof.Machine

/-- What an unlisted address reads as: its reset contents, the parameter FONT from FONT_BASE = 0x000 and then zero
(10_state.md R27; 20_memory.md R35, R36; D16; entry 15). Every operation over memory takes the parameters. -/
def Memory.background (p : Params) (a : Nat) : Byte := p.font.getD a 0

/-- The canonical form from address `lo` up: addresses strictly rising and below 4096, no cell equal to its reset
contents. -/
def Memory.wfFrom (p : Params) (lo : Nat) : Memory → Bool
  | [] => true
  | (k, b) :: rest =>
    decide (lo ≤ k) && decide (k < 4096) && b != Memory.background p k && Memory.wfFrom p (k + 1) rest

/-- The memory is in its one canonical form. -/
def Memory.wfWith (p : Params) (m : Memory) : Bool := Memory.wfFrom p 0 m

/-- The canonical form under this hardware's font. -/
def Memory.wf (m : Memory) : Bool := m.wfWith Config.params

/-- The byte at an address. -/
def Memory.readWith (p : Params) (m : Memory) (a : Nat) : Byte :=
  match m with
  | [] => Memory.background p a
  | (k, b) :: rest => if k = a then b else Memory.readWith p rest a

/-- The byte at an address of this hardware's memory. -/
def Memory.read (m : Memory) (a : Nat) : Byte := m.readWith Config.params a

/-- The cell for a byte at an address: none where the byte is the reset contents. -/
def Memory.cell (p : Params) (a : Nat) (b : Byte) : Memory :=
  if b = Memory.background p a then [] else [(a, b)]

/-- Set the byte at an address, keeping the canonical form. -/
def Memory.writeWith (p : Params) (m : Memory) (a : Nat) (b : Byte) : Memory :=
  match m with
  | [] => Memory.cell p a b
  | (k, c) :: rest =>
    if a < k then Memory.cell p a b ++ (k, c) :: rest
    else if a = k then Memory.cell p a b ++ rest
    else (k, c) :: Memory.writeWith p rest a b

/-- The memory whose byte at each of the 4096 addresses is `f` of it. -/
def Memory.ofFun (p : Params) (f : Nat → Byte) : Memory :=
  (List.range 4096).filterMap fun a => if f a = Memory.background p a then none else some (a, f a)

/-- MemRead(a, 1): the error is the offending address (20_memory.md R29). -/
def memRead (p : Params) (m : Memory) (a : Nat) : Except Nat Byte :=
  if a ≥ 4096 then .error a else .ok (m.readWith p a)

/-- MemWrite(a, 1, b): the error is the offending address (20_memory.md R29). -/
def memWrite (p : Params) (m : Memory) (a : Nat) (b : Byte) : Except Nat Memory :=
  if a ≥ 4096 then .error a else .ok (m.writeWith p a b)

/-- `n` reads at a, a+1, … in ascending order, stopping at the first that is out of range (20_memory.md R33). -/
def readBytes (p : Params) (m : Memory) (a : Nat) : Nat → Except Nat (List Byte)
  | 0 => .ok []
  | n + 1 =>
    match memRead p m a with
    | .error e => .error e
    | .ok b =>
      match readBytes p m (a + 1) n with
      | .error e => .error e
      | .ok bs => .ok (b :: bs)

/-- Writes at a, a+1, … in ascending order, stopping at the first that is out of range (20_memory.md R33). -/
def writeBytes (p : Params) (m : Memory) (a : Nat) : List Byte → Except Nat Memory
  | [] => .ok m
  | b :: bs =>
    match memWrite p m a b with
    | .error e => .error e
    | .ok m' => writeBytes p m' (a + 1) bs

/-- V[x] (00_scope.md R8). -/
def State.getV (s : State) (x : Reg) : Byte := s.v.get x

/-- V[x] <- b. -/
def State.setV (x : Reg) (b : Byte) (s : State) : State :=
  { s with v := s.v.set x.val b x.isLt }

/-- VF, the flag register (10_state.md R15). -/
def regF : Reg := 15

/-- VF <- flag. -/
def State.setFlag (flag : Byte) (s : State) : State := s.setV regF flag

/-- A result to V[x] and a flag to VF, in the order FLAG_WRITE_ORDER gives (43_arith_shift.md, preamble; D5). -/
def State.setResultAndFlag (p : Params) (x : Reg) (result flag : Byte) (s : State) : State :=
  match p.flagWriteOrder with
  | .flagLast => (s.setV x result).setFlag flag
  | .flagFirst => (s.setFlag flag).setV x result

/-- V[k], V[k+1], … <- the bytes, in order (45_memory_index.md R89). -/
def loadFrom (k : Nat) (bs : List Byte) (v : Vector Byte 16) : Vector Byte 16 :=
  match bs with
  | [] => v
  | b :: rest => loadFrom (k + 1) rest (v.setIfInBounds k b)

/-- V[0], V[1], … <- the bytes; the other registers keep their values. -/
def State.loadV (bs : List Byte) (s : State) : State := { s with v := loadFrom 0 bs s.v }

/-- V[0] to V[x], in order (45_memory_index.md R88). -/
def State.regsUpTo (s : State) (x : Reg) : List Byte := s.v.toList.take (x.val + 1)

/-- I <- w. -/
def State.setI (w : Word) (s : State) : State := { s with i := w }

/-- DT <- b. -/
def State.setDT (b : Byte) (s : State) : State := { s with dt := b }

/-- ST <- b. -/
def State.setST (b : Byte) (s : State) : State := { s with st := b }

/-- The memory replaced. -/
def State.setMem (m : Memory) (s : State) : State := { s with mem := m }

/-- The framebuffer replaced and marked for redraw: every draw and every clear sets dirty (10_state.md R21; C10). -/
def State.setFb (fb : Framebuffer) (s : State) : State := { s with fb := fb, dirty := true }

/-- stack[SP] <- w, SP <- SP + 1; none where SP = 16 (10_state.md R18). -/
def State.push (w : Word) (s : State) : Option State :=
  if h : s.sp.val < 16 then
    some { s with stack := s.stack.set s.sp.val w h, sp := ⟨s.sp.val + 1, Nat.succ_lt_succ h⟩ }
  else none

/-- SP <- SP - 1 and then stack[SP], the slot not cleared; none where SP = 0 (10_state.md R18). -/
def State.pop (s : State) : Option (Word × State) :=
  match s.sp with
  | ⟨0, _⟩ => none
  | ⟨k + 1, h⟩ =>
    some (s.stack[k]'(Nat.lt_of_succ_lt_succ h), { s with sp := ⟨k, Nat.lt_of_succ_lt h⟩ })

/-- FB[y][x] (10_state.md R20). -/
def pixel (fb : Framebuffer) (x : Fin 64) (y : Fin 32) : Bool := (fb.get y).get x

/-- FB[y][x] <- c. -/
def setPixel (fb : Framebuffer) (x : Fin 64) (y : Fin 32) (c : Bool) : Framebuffer :=
  fb.set y.val ((fb.get y).set x.val c x.isLt) y.isLt

/-- Every pixel 0 (47_display.md R96). -/
def blankFramebuffer : Framebuffer := Vector.replicate 32 (Vector.replicate 64 false)

/-- The instruction has executed and the next one is at `target`: PC <- target, status_out <- Executed
(40_cycle.md R51, R53). -/
def State.complete (target : Word) (s : State) : State :=
  { s with pc := target, statusOut := .executed }

/-- The default PC advance, PC <- pc0 + 2 (40_cycle.md R53). -/
def State.advance (s : State) : State := s.complete (s.pc + 2)

/-- The skips: PC <- pc0 + 4 when taken, pc0 + 2 when not (40_cycle.md R53). -/
def State.skipIf (taken : Bool) (s : State) : State :=
  s.complete (if taken then s.pc + 4 else s.pc + 2)

/-- The key wait that finds no key: nothing changes but status_out (40_cycle.md R55). -/
def State.awaitKey (s : State) : State := { s with statusOut := .awaitingInput }

/-- TAKING A FATAL ERROR (60_exceptions.md R100, R101): status <- Faulted(record), status_out <- Fatal, PC stays pc0.
Every other element of the state is unspecified: a free value (entry 3). -/
def State.raise (record : FaultRecord) (s : State) : State :=
  { v := (Config.afterFault s.cycle).v
    i := (Config.afterFault s.cycle).i
    pc := s.pc
    stack := (Config.afterFault s.cycle).stack
    sp := (Config.afterFault s.cycle).sp
    dt := (Config.afterFault s.cycle).dt
    st := (Config.afterFault s.cycle).st
    mem := Memory.ofFun Config.params (Config.afterFault s.cycle).mem
    fb := (Config.afterFault s.cycle).fb
    dirty := (Config.afterFault s.cycle).dirty
    status := .faulted record
    statusOut := .fatal record
    beep := s.beep
    load := s.load
    inputs := s.inputs
    cycle := s.cycle }

/-- OutOfRange(pc0, op, index) raised by instruction `ins` (20_memory.md R29; 46_timers_keys.md R94, R95); op is the
instruction's word (entry 11). -/
def State.raiseOutOfRange (ins : Instr) (index : Nat) (s : State) : State :=
  s.raise (.outOfRange s.pc (encode ins) index)

/-- What the host drives for this cycle: the head of the script, or a free value where it has run out (entry 1). -/
def State.input (s : State) : CycleInput := s.inputs.headD (Config.hostInput s.cycle)

/-- keys[k] of this cycle (10_state.md R22). -/
def State.keyPressed (s : State) (k : Nat) : Bool := s.input.keys.getLsbD k

/-- The keys pressed in this cycle, lowest first. -/
def State.pressedKeys (s : State) : List Key := (List.finRange 16).filter fun k => s.keyPressed k.val

/-- The key FX0A takes, none where none is pressed (46_timers_keys.md R93; KEYWAIT_PICK, D11). -/
def State.pickKey (p : Params) (s : State) : Option Key :=
  match p.keywaitPick with
  | .lowest => s.pressedKeys.head?
  | .any => s.pressedKeys[Config.keyPick s.cycle % s.pressedKeys.length]?

end Sys2Proof.Machine
end

