-- ==== Sys2Proof/Machine/Cycle.lean ====
section
/-! DEFINITION. The cycle around an instruction (40_cycle.md): its start, the fetch, the Unknown word, the timer tick,
its end; and placing an instruction where the next cycle fetches. -/

namespace Sys2Proof.Machine

/-- The start of a cycle: a pulse of dirty_clear takes effect first (40_cycle.md R60; D28), and beep <- 0 (R51). -/
def State.beginCycle (s : State) : State :=
  { s with dirty := s.dirty && !s.input.dirtyClear, beep := false }

/-- Fetch(PC): two bytes, big-endian; FetchOutOfRange where PC + 1 > 0xFFF (20_memory.md R30). -/
def State.fetch (s : State) : Except FaultRecord Word :=
  if s.pc.toNat + 1 > 0xFFF then .error (.fetchOutOfRange s.pc)
  else .ok (wordOfBytes (s.mem.read s.pc.toNat) (s.mem.read (s.pc.toNat + 1)))

/-- An Unknown word: a no-op that advances PC by 2 and is reported (40_cycle.md R54). -/
def State.unknownOpcode (op : Word) (s : State) : State :=
  { s with pc := s.pc + 2, statusOut := .unknownOpcode s.pc op }

/-- Whether a cycle with this status runs the tick (40_cycle.md R55, R57; KEYWAIT_TICKS, D10). -/
def ticks (p : Params) : CycleStatus → Bool
  | .noCycle => false
  | .executed => true
  | .unknownOpcode _ _ => true
  | .awaitingInput => p.keywaitTicks
  | .fatal _ => false

/-- One down, never below 0 (10_state.md R19). -/
def countDown (b : Byte) : Byte := if b.toNat > 0 then b - 1 else b

/-- Tick(): both timers count down; beep where ST goes from 1 to 0 (40_cycle.md R57). -/
def State.tick (s : State) : State :=
  { s with dt := countDown s.dt, st := countDown s.st, beep := if s.st = 1 then true else s.beep }

/-- The next cycle's inputs come up (entry 1). -/
def State.nextInput (s : State) : State :=
  { s with inputs := s.inputs.tail, cycle := s.cycle + 1 }

/-- The end of a cycle: the tick where its status has one (40_cycle.md R51, R57). -/
def State.endCycle (s : State) : State :=
  (if ticks Config.params s.statusOut then s.tick else s).nextInput

/-- A byte at an address of memory; nothing where there is no such address. -/
def Memory.place (p : Params) (m : Memory) (a : Nat) (b : Byte) : Memory :=
  if a < 4096 then m.writeWith p a b else m

/-- The word at the address the next cycle fetches from, high byte first (20_memory.md R30, R31). -/
def State.placeWord (op : Word) (s : State) : State :=
  let first := s.mem.place Config.params s.pc.toNat (firstByte op)
  { s with mem := first.place Config.params (s.pc.toNat + 1) (secondByte op) }

/-- The session has its program and runs (70_reset_and_hazards.md R115; entry 5). -/
def State.started (s : State) : State := { s with load := .loaded, status := .running }

end Sys2Proof.Machine
end

