-- ==== Sys2Proof/Machine/Flags.lean ====
section
/-! DEFINITION. Every flag the spec computes (10_state.md R15), each exactly 0 or 1, and the results they go with,
computed on natural numbers and narrowed at the end (00_scope.md R7; 43_arith_shift.md). -/

namespace Sys2Proof.Machine

/-- A condition as the value VF takes: 1 or 0 (10_state.md R15). -/
def flagOf (c : Bool) : Byte := if c then 1 else 0

/-- The carry of a + b: the 9-bit sum exceeds 255 (R77). -/
def carryFlag (a b : Byte) : Byte := flagOf (decide (a.toNat + b.toNat > 255))

/-- (a + b) mod 256 (R72, R77). -/
def sumByte (a b : Byte) : Byte := BitVec.ofNat 8 (a.toNat + b.toNat)

/-- NOT borrow of a - b: 0 if b > a, else 1 (R78; R79 with the operands exchanged). -/
def notBorrowFlag (a b : Byte) : Byte := flagOf (decide (¬ b.toNat > a.toNat))

/-- (a - b) mod 256 (R78). -/
def diffByte (a b : Byte) : Byte := BitVec.ofNat 8 (a.toNat + 256 - b.toNat)

/-- The bit a right shift by one pushes out, bit 0 (R80). -/
def shrFlag (src : Byte) : Byte := BitVec.ofNat 8 (src.toNat % 2)

/-- A logical right shift by one (R80). -/
def shrByte (src : Byte) : Byte := BitVec.ofNat 8 (src.toNat / 2)

/-- The bit a left shift by one pushes out, bit 7 (R81). -/
def shlFlag (src : Byte) : Byte := BitVec.ofNat 8 (src.toNat / 128)

/-- A left shift by one, mod 256 (R81). -/
def shlByte (src : Byte) : Byte := BitVec.ofNat 8 (src.toNat * 2)

/-- I + v overflows past 0xFFF (R85). -/
def indexOverflows (i : Word) (v : Byte) : Bool := decide (i.toNat + v.toNat > 0xFFF)

end Sys2Proof.Machine
end

