-- ==== Sys2Proof/Machine/Operands.lean ====
section
/-! DEFINITION. Every operand form the spec gives (30_encoding.md R44; 45_memory_index.md, preamble). -/

namespace Sys2Proof.Machine

/-- NNN zero-extended to 16 bits (30_encoding.md R44). -/
def addressLiteral (nnn : BitVec 12) : Word := BitVec.ofNat 16 nnn.toNat

/-- NNN + V[0], a 16-bit result (41_control_flow.md R70). -/
def offsetTarget (nnn : BitVec 12) (s : State) : Word :=
  BitVec.ofNat 16 (nnn.toNat + (s.getV 0).toNat)

/-- The base of every data access: I as an unbounded natural (00_scope.md R7; 20_memory.md R29). -/
def indexAddress (s : State) : Nat := s.i.toNat

/-- (I + k) mod 65536 (45_memory_index.md R85, R88, R89). -/
def indexPlus (s : State) (k : Nat) : Word := BitVec.ofNat 16 (s.i.toNat + k)

/-- The register value 8XY6 and 8XYE shift (43_arith_shift.md R80; SHIFT_SOURCE, D6). -/
def shiftOperand (p : Params) (x y : Reg) (s : State) : Byte :=
  match p.shiftSource with
  | .vy => s.getV y
  | .vx => s.getV x

/-- The digit FX29 takes from its register (45_memory_index.md R86; FONT_DIGIT_MASK, D8). -/
def fontDigit (p : Params) (v : Byte) : Nat :=
  match p.fontDigitMask with
  | .none => v.toNat
  | .lowNibble => v.toNat % 16

/-- The address of a digit's glyph, FONT_BASE + 5 * d (45_memory_index.md R86). -/
def glyphAddress (p : Params) (v : Byte) : Word :=
  BitVec.ofNat 16 (Config.fontBase + 5 * fontDigit p v)

/-- The hundreds, tens and ones digits, in the order FX33 stores them (45_memory_index.md R87). -/
def bcdDigits (v : Byte) : List Byte :=
  [BitVec.ofNat 8 (v.toNat / 100), BitVec.ofNat 8 (v.toNat / 10 % 10), BitVec.ofNat 8 (v.toNat % 10)]

/-- The starting column of a draw, V[X] mod 64 (47_display.md R97). -/
def drawColumn (x : Reg) (s : State) : Nat := (s.getV x).toNat % 64

/-- The starting row of a draw, V[Y] mod 32 (47_display.md R97). -/
def drawRowStart (y : Reg) (s : State) : Nat := (s.getV y).toNat % 32

end Sys2Proof.Machine
end

