-- ==== Sys2Proof/Machine/ArithShift.lean ====
section
/-! DEFINITION. The arithmetic and shift instructions that write VF (43_arith_shift.md): operands first, then the
result, then the flag (D5). -/

namespace Sys2Proof.Machine

/-- ADD Vx, Vy: VF = carry (R77). -/
def execAddReg (x y : Reg) (s : State) : Host.Outcome State Fault Refusal :=
  .next (s.setResultAndFlag Config.params x (sumByte (s.getV x) (s.getV y)) (carryFlag (s.getV x) (s.getV y))).advance

/-- SUB Vx, Vy: VF = NOT borrow (R78). -/
def execSub (x y : Reg) (s : State) : Host.Outcome State Fault Refusal :=
  .next (s.setResultAndFlag Config.params x (diffByte (s.getV x) (s.getV y))
    (notBorrowFlag (s.getV x) (s.getV y))).advance

/-- SUBN Vx, Vy: X = Y - X, VF = NOT borrow (R79). -/
def execSubn (x y : Reg) (s : State) : Host.Outcome State Fault Refusal :=
  .next (s.setResultAndFlag Config.params x (diffByte (s.getV y) (s.getV x))
    (notBorrowFlag (s.getV y) (s.getV x))).advance

/-- SHR Vx, Vy: VF = the bit shifted out (R80). -/
def execShr (x y : Reg) (s : State) : Host.Outcome State Fault Refusal :=
  .next (s.setResultAndFlag Config.params x (shrByte (shiftOperand Config.params x y s))
    (shrFlag (shiftOperand Config.params x y s))).advance

/-- SHL Vx, Vy: VF = the bit shifted out (R81). -/
def execShl (x y : Reg) (s : State) : Host.Outcome State Fault Refusal :=
  .next (s.setResultAndFlag Config.params x (shlByte (shiftOperand Config.params x y s))
    (shlFlag (shiftOperand Config.params x y s))).advance

end Sys2Proof.Machine
end

