-- ==== Sys2Proof/Machine/ControlFlow.lean ====
section
/-! DEFINITION. The control flow instructions (41_control_flow.md). pc0 is the state's pc: PC still holds the address of
the instruction while it executes (10_state.md R17). -/

namespace Sys2Proof.Machine

/-- SYS NNN: no operation; NNN is ignored (R62). -/
def execSys (_nnn : BitVec 12) (s : State) : Host.Outcome State Fault Refusal :=
  .next s.advance

/-- RET: pop into PC; StackUnderflow on an empty stack (R63). -/
def execRet (x : Reg) (s : State) : Host.Outcome State Fault Refusal :=
  .next (match s.pop with
    | none => s.raise (.stackUnderflow s.pc (encode (.ret x)))
    | some (target, t) => t.complete target)

/-- JP NNN (R64). -/
def execJp (nnn : BitVec 12) (s : State) : Host.Outcome State Fault Refusal :=
  .next (s.complete (addressLiteral nnn))

/-- CALL NNN: push pc0 + 2 and jump; StackOverflow on a full stack (R65). -/
def execCall (nnn : BitVec 12) (s : State) : Host.Outcome State Fault Refusal :=
  .next (match s.push (s.pc + 2) with
    | none => s.raise (.stackOverflow s.pc (encode (.call nnn)))
    | some t => t.complete (addressLiteral nnn))

/-- SE Vx, NN: skip if equal (R66). -/
def execSeImm (x : Reg) (nn : Byte) (s : State) : Host.Outcome State Fault Refusal :=
  .next (s.skipIf (s.getV x == nn))

/-- SNE Vx, NN: skip if different (R67). -/
def execSneImm (x : Reg) (nn : Byte) (s : State) : Host.Outcome State Fault Refusal :=
  .next (s.skipIf (s.getV x != nn))

/-- SE Vx, Vy: skip if equal; N is ignored (R68). -/
def execSeReg (x y : Reg) (_n : BitVec 4) (s : State) : Host.Outcome State Fault Refusal :=
  .next (s.skipIf (s.getV x == s.getV y))

/-- SNE Vx, Vy: skip if different; N is ignored (R69). -/
def execSneReg (x y : Reg) (_n : BitVec 4) (s : State) : Host.Outcome State Fault Refusal :=
  .next (s.skipIf (s.getV x != s.getV y))

/-- JP V0, NNN: jump to NNN + V[0] (R70). -/
def execJpV0 (nnn : BitVec 12) (s : State) : Host.Outcome State Fault Refusal :=
  .next (s.complete (offsetTarget nnn s))

end Sys2Proof.Machine
end

