-- ==== Sys2Proof/Machine/Display.lean ====
section
/-! DEFINITION. The display instructions and the sprite compositor (47_display.md). -/

namespace Sys2Proof.Machine

/-- CLS: every pixel 0, dirty set; X is ignored (R96). -/
def execCls (_x : Reg) (s : State) : Host.Outcome State Fault Refusal :=
  .next (s.setFb blankFramebuffer).advance

/-- One set sprite bit at pixel (x, y), wrapped: a pixel already 1 is a collision, and the pixel is inverted. The pair
is the framebuffer and the collision so far (R97). -/
def plot (x y : Nat) (acc : Framebuffer × Bool) : Framebuffer × Bool :=
  let px : Fin 64 := ⟨x % 64, Nat.mod_lt _ (by decide)⟩
  let py : Fin 32 := ⟨y % 32, Nat.mod_lt _ (by decide)⟩
  (setPixel acc.1 px py (!pixel acc.1 px py), acc.2 || pixel acc.1 px py)

/-- One sprite row at (x0, y), most significant bit leftmost (R97). -/
def drawRow (x0 y : Nat) (row : Byte) (acc : Framebuffer × Bool) : Framebuffer × Bool :=
  (List.range 8).foldl (fun acc c => if row.getLsbD (7 - c) then plot (x0 + c) y acc else acc) acc

/-- The sprite rows from row y down (R97). -/
def drawRows (x0 y : Nat) (rows : List Byte) (acc : Framebuffer × Bool) : Framebuffer × Bool :=
  match rows with
  | [] => acc
  | row :: rest => drawRows x0 (y + 1) rest (drawRow x0 y row acc)

/-- DRW Vx, Vy, N: XOR the sprite at I onto the framebuffer, VF = collision, dirty set (R97). -/
def execDrw (x y : Reg) (n : BitVec 4) (s : State) : Host.Outcome State Fault Refusal :=
  .next (match readBytes Config.params s.mem (indexAddress s) n.toNat with
    | .error a => s.raiseOutOfRange (.drw x y n) a
    | .ok rows =>
      let drawn := drawRows (drawColumn x s) (drawRowStart y s) rows (s.fb, false)
      ((s.setFb drawn.1).setFlag (flagOf drawn.2)).advance)

end Sys2Proof.Machine
end

