-- ==== Sys2Proof/Machine/IndexMemory.lean ====
section
/-! DEFINITION. The index register and memory instructions (45_memory_index.md). -/

namespace Sys2Proof.Machine

/-- LD I, NNN (R84). -/
def execLdI (nnn : BitVec 12) (s : State) : Host.Outcome State Fault Refusal :=
  .next (s.setI (addressLiteral nnn)).advance

/-- The VF write of FX1E: 1 on overflow past 0xFFF, else as FX1E_VF_NO_OVERFLOW says (R85; D7). -/
def indexFlag (p : Params) (overflow : Bool) (s : State) : State :=
  if overflow then s.setFlag 1
  else match p.fx1eNoOverflow with
    | .clear => s.setFlag 0
    | .unchanged => s

/-- ADD I, Vx (R85). -/
def execAddI (x : Reg) (s : State) : Host.Outcome State Fault Refusal :=
  .next (indexFlag Config.params (indexOverflows s.i (s.getV x))
    (s.setI (indexPlus s (s.getV x).toNat))).advance

/-- LD F, Vx (R86). -/
def execLdF (x : Reg) (s : State) : Host.Outcome State Fault Refusal :=
  .next (s.setI (glyphAddress Config.params (s.getV x))).advance

/-- LD B, Vx: the decimal digits at I, I+1, I+2 (R87). -/
def execLdB (x : Reg) (s : State) : Host.Outcome State Fault Refusal :=
  .next (match writeBytes Config.params s.mem (indexAddress s) (bcdDigits (s.getV x)) with
    | .error a => s.raiseOutOfRange (.ldB x) a
    | .ok m => (s.setMem m).advance)

/-- LD [I], Vx: V0 to VX at I, I+1, …; I advances by X + 1 (R88). -/
def execLdMemVx (x : Reg) (s : State) : Host.Outcome State Fault Refusal :=
  .next (match writeBytes Config.params s.mem (indexAddress s) (s.regsUpTo x) with
    | .error a => s.raiseOutOfRange (.ldMemVx x) a
    | .ok m => ((s.setMem m).setI (indexPlus s (x.val + 1))).advance)

/-- LD Vx, [I]: V0 to VX from I, I+1, …; I advances by X + 1 (R89). -/
def execLdVxMem (x : Reg) (s : State) : Host.Outcome State Fault Refusal :=
  .next (match readBytes Config.params s.mem (indexAddress s) (x.val + 1) with
    | .error a => s.raiseOutOfRange (.ldVxMem x) a
    | .ok bs => ((s.loadV bs).setI (indexPlus s (x.val + 1))).advance)

end Sys2Proof.Machine
end

