-- ==== Sys2Proof/Machine/Random.lean ====
section
/-! DEFINITION. The random instruction (44_random.md). -/

namespace Sys2Proof.Machine

/-- RND Vx, NN: this cycle's rand8 masked with NN (R83). -/
def execRnd (x : Reg) (nn : Byte) (s : State) : Host.Outcome State Fault Refusal :=
  .next (s.setV x (s.input.rand8 &&& nn)).advance

end Sys2Proof.Machine
end

