-- ==== Sys2Proof/Machine/TimersKeys.lean ====
section
/-! DEFINITION. The timer and key instructions (46_timers_keys.md). The tick of the cycle is in Cycle.lean. -/

namespace Sys2Proof.Machine

/-- LD Vx, DT: DT before this cycle's tick (R90). -/
def execLdVxDt (x : Reg) (s : State) : Host.Outcome State Fault Refusal :=
  .next (s.setV x s.dt).advance

/-- LD DT, Vx (R91). -/
def execLdDtVx (x : Reg) (s : State) : Host.Outcome State Fault Refusal :=
  .next (s.setDT (s.getV x)).advance

/-- LD ST, Vx (R92). -/
def execLdStVx (x : Reg) (s : State) : Host.Outcome State Fault Refusal :=
  .next (s.setST (s.getV x)).advance

/-- LD Vx, K: the pressed key's number; no key pressed: wait (R93; 40_cycle.md R55). -/
def execLdVxK (x : Reg) (s : State) : Host.Outcome State Fault Refusal :=
  .next (match s.pickKey Config.params with
    | none => s.awaitKey
    | some k => (s.setV x (BitVec.ofNat 8 k.val)).advance)

/-- SKP Vx: skip if key V[X] is pressed; OutOfRange for an index of 16 or more (R94). -/
def execSkp (x : Reg) (s : State) : Host.Outcome State Fault Refusal :=
  .next (if (s.getV x).toNat ≥ 16 then s.raiseOutOfRange (.skp x) (s.getV x).toNat
    else s.skipIf (s.keyPressed (s.getV x).toNat))

/-- SKNP Vx: skip if key V[X] is not pressed; OutOfRange for an index of 16 or more (R95). -/
def execSknp (x : Reg) (s : State) : Host.Outcome State Fault Refusal :=
  .next (if (s.getV x).toNat ≥ 16 then s.raiseOutOfRange (.sknp x) (s.getV x).toNat
    else s.skipIf (!s.keyPressed (s.getV x).toNat))

end Sys2Proof.Machine
end

