-- ==== Sys2Proof/Machine/Step.lean ====
section
/-! DEFINITION. One step: one cycle of the block (40_cycle.md R51). -/

namespace Sys2Proof.Machine

/-- The cycle of a running block: its start, the fetch, the instruction or the Unknown word, its end (40_cycle.md R51,
R54, R55; 60_exceptions.md R100). -/
def runCycle (s : State) : Host.Outcome State Fault Refusal :=
  match s.beginCycle.fetch with
  | .error record => .next (s.beginCycle.raise record).endCycle
  | .ok op =>
    match decode op with
    | .unknown w => .next (s.beginCycle.unknownOpcode w).endCycle
    | .instr i =>
      match exec i s.beginCycle with
      | .next t => .next t.endCycle
      | .fault r => .fault r
      | .refused r => .refused r

/-- One step: refused before a program is loaded (20_memory.md R42; U10), none in status Faulted (40_cycle.md R56), else
one cycle. -/
def step (s : State) : Host.Outcome State Fault Refusal :=
  match s.load with
  | .awaitingImage => .refused .notLoaded
  | .tooLarge _ => .refused .notLoaded
  | .loaded =>
    match s.status with
    | .faulted _ => .fault .faultedStatus
    | .running => runCycle s

/-- The instruction word whose bits spec/opcode_table.json numbers as `w`, at the address the next cycle fetches from,
in a session that is loaded and running (entry 5). -/
def State.withFetchWord (s : State) (nbits w : Nat) : State :=
  (s.placeWord (BitVec.ofNat 16 (w % 2 ^ nbits))).started

end Sys2Proof.Machine
end

