-- ==== Sys2Proof/Machine/Ports.lean ====
section
/-! DEFINITION. The block's ports (40_cycle.md R59, R60): each output as a function of the state, none where the port
is not valid, with the codes of D14; and each thing the host may do between cycles as a function on the state. -/

namespace Sys2Proof.Machine

/-- The fb port: bit y*64+x is FB[y][x] (40_cycle.md R59). -/
def fbPort (s : State) : BitVec 2048 :=
  BitVec.ofFnLE fun k : Fin 2048 =>
    pixel s.fb ⟨k.val % 64, Nat.mod_lt _ (by decide)⟩ ⟨k.val / 64, Nat.div_lt_of_lt_mul k.isLt⟩

/-- The dirty port. -/
def dirtyPort (s : State) : Bool := s.dirty

/-- The beep port, for the cycle just ended. -/
def beepPort (s : State) : Bool := s.beep

/-- The status_out port: Executed 0, UnknownOpcode 1, AwaitingInput 2, Fatal 3 (D14). -/
def statusOutPort (s : State) : Option (BitVec 2) :=
  match s.statusOut with
  | .noCycle => none
  | .executed => some 0
  | .unknownOpcode _ _ => some 1
  | .awaitingInput => some 2
  | .fatal _ => some 3

/-- The PC in a fault record. -/
def FaultRecord.pc : FaultRecord → Word
  | .fetchOutOfRange pc => pc
  | .stackOverflow pc _ => pc
  | .stackUnderflow pc _ => pc
  | .outOfRange pc _ _ => pc

/-- The opcode word in a fault record, none where no word was fetched. -/
def FaultRecord.op : FaultRecord → Option Word
  | .fetchOutOfRange _ => none
  | .stackOverflow _ op => some op
  | .stackUnderflow _ op => some op
  | .outOfRange _ op _ => some op

/-- The code of a fatal error of a cycle (60_exceptions.md R99; D14). -/
def FaultRecord.kindCode : FaultRecord → BitVec 3
  | .fetchOutOfRange _ => 1
  | .stackOverflow _ _ => 2
  | .stackUnderflow _ _ => 3
  | .outOfRange _ _ _ => 4

/-- The code of ProgramTooLarge, the one error of load time (60_exceptions.md R99; D14). -/
def programTooLargeCode : BitVec 3 := 5

/-- The info_pc port, valid for UnknownOpcode and Fatal. -/
def infoPcPort (s : State) : Option Word :=
  match s.statusOut with
  | .unknownOpcode pc _ => some pc
  | .fatal record => some record.pc
  | .noCycle => none
  | .executed => none
  | .awaitingInput => none

/-- The info_op port, valid for UnknownOpcode and Fatal; any value for FetchOutOfRange (U7; entry 17). -/
def infoOpPort (s : State) : Option Word :=
  match s.statusOut with
  | .unknownOpcode _ op => some op
  | .fatal record => some (record.op.getD (Config.noFetchInfoOp s.cycle))
  | .noCycle => none
  | .executed => none
  | .awaitingInput => none

/-- The fault_kind port, valid when status_out is Fatal. -/
def faultKindPort (s : State) : Option (BitVec 3) :=
  match s.statusOut with
  | .fatal record => some record.kindCode
  | .unknownOpcode _ _ => none
  | .noCycle => none
  | .executed => none
  | .awaitingInput => none

/-- The address or key index in a fault record, any value for the other kinds (U8; entry 17). -/
def FaultRecord.addr (cycle : Nat) : FaultRecord → Nat
  | .outOfRange _ _ index => index
  | .fetchOutOfRange _ => Config.noFaultAddr cycle
  | .stackOverflow _ _ => Config.noFaultAddr cycle
  | .stackUnderflow _ _ => Config.noFaultAddr cycle

/-- The fault_addr port. -/
def faultAddrPort (s : State) : Option Nat :=
  match s.statusOut with
  | .fatal record => some (record.addr s.cycle)
  | .unknownOpcode _ _ => none
  | .noCycle => none
  | .executed => none
  | .awaitingInput => none

/-- The load_status port, whether the load failed with ProgramTooLarge, valid after load_img (40_cycle.md R59). DESIGN
CHOICE (entry 22): the spec gives its one bit no code, and here true is ProgramTooLarge and false is ok; after an empty
image the spec gives it no value, and here it is not valid. -/
def loadTooLargePort (s : State) : Option Bool :=
  match s.load with
  | .awaitingImage => none
  | .loaded => some false
  | .tooLarge _ => some true

/-- rst: re-initialize the whole block, whatever its state (70_reset_and_hazards.md R114). What the host will drive in
the coming cycles, and the number of the next cycle, are not the block's (entry 18). -/
def hostReset (s : State) : State := { State.reset with inputs := s.inputs, cycle := s.cycle }

/-- Copy an image into memory from an address up (20_memory.md R42). -/
def copyImage (p : Params) (m : Memory) (a : Nat) : List Byte → Memory
  | [] => m
  | b :: bs => copyImage p (m.writeWith p a b) (a + 1) bs

/-- What the loader does with an image (20_memory.md R42): one too large writes no byte and execution never starts; an
empty one is absent, and the core waits for one (D27; entry 6). -/
def State.loadImage (img : List Byte) (s : State) : State :=
  if Config.programBase + img.length > 4096 then { s with load := .tooLarge img.length }
  else if img.isEmpty then { s with load := .awaitingImage }
  else { s with mem := copyImage Config.params s.mem Config.programBase img, load := .loaded }

/-- Whether no cycle has run since reset: every cycle leaves a status (entry 2). -/
def State.beforeFirstCycle (s : State) : Bool := s.statusOut == .noCycle

/-- load_img: the program loader, any time after reset and before the first cycle (40_cycle.md R60; 20_memory.md R41),
but for ProgramTooLarge, after which execution never starts (R42; entry 6). -/
def hostLoad (img : List Byte) (s : State) : Host.Outcome State Fault Refusal :=
  if s.beforeFirstCycle then
    match s.load with
    | .awaitingImage => .next (s.loadImage img)
    | .loaded => .next (s.loadImage img)
    | .tooLarge _ => .refused .noHostMove
  else .refused .noHostMove

/-- A pulse of dirty_clear with no cycle following it yet (40_cycle.md R60). -/
def hostDirtyClear (s : State) : State := { s with dirty := false }

/-- The host drives these inputs in the next cycle, before whatever the script already holds (40_cycle.md R60;
entry 1). -/
def hostDrive (input : CycleInput) (s : State) : State := { s with inputs := input :: s.inputs }

end Sys2Proof.Machine
end

