-- ==== Sys2Proof/Safety.lean ====
section
/-! DEFINITION. The terms the statements are made in: what an instruction leaves unchanged, how it completes or
faults, the invariants, which cycles are fatal, and which pixels a sprite covers. Nothing here is used by the machine. -/

namespace Sys2Proof.Safety

open Sys2Proof.Machine

/-- Every general register keeps its value. -/
def KeepsRegs (s t : State) : Prop := ∀ r, t.getV r = s.getV r

/-- Every general register but `x` keeps its value, and `x` holds `b`. -/
def WritesReg (x : Reg) (b : Byte) (s t : State) : Prop := ∀ r, t.getV r = if r = x then b else s.getV r

/-- A result goes to `x` and a flag to VF, which holds the flag even where `x` is VF; the other registers keep their
values (43_arith_shift.md, preamble; the spec's decision D5). -/
def WritesRegAndFlag (x : Reg) (b flag : Byte) (s t : State) : Prop :=
  t.getV 15 = flag ∧ (x ≠ 15 → t.getV x = b) ∧ ∀ r, r ≠ x → r ≠ 15 → t.getV r = s.getV r

def KeepsStack (s t : State) : Prop := t.stack = s.stack ∧ t.sp = s.sp

def KeepsTimers (s t : State) : Prop := t.dt = s.dt ∧ t.st = s.st

/-- Every byte of memory reads as before. -/
def KeepsMemory (s t : State) : Prop := ∀ a, t.mem.read a = s.mem.read a

def KeepsDisplay (s t : State) : Prop := t.fb = s.fb ∧ t.dirty = s.dirty

/-- The run status, the beep, the loader's status and the inputs are as before. -/
def KeepsSession (s t : State) : Prop :=
  t.status = s.status ∧ t.beep = s.beep ∧ t.load = s.load ∧ t.inputs = s.inputs ∧ t.cycle = s.cycle

/-- Everything but the general registers, the pc and the status output is as before. -/
def KeepsAllButRegs (s t : State) : Prop :=
  t.i = s.i ∧ KeepsStack s t ∧ KeepsTimers s t ∧ KeepsMemory s t ∧ KeepsDisplay s t

/-- Everything but the pc and the status output is as before. -/
def KeepsAllButPc (s t : State) : Prop := KeepsRegs s t ∧ KeepsAllButRegs s t

/-- The instruction has executed: the next one is at `target`, the status is Executed, and no error was raised. -/
def Completes (target : Word) (s t : State) : Prop :=
  t.pc = target ∧ t.statusOut = .executed ∧ KeepsSession s t

/-- A fatal error was raised: the record is in the run status and on the status output, and the pc stays
(60_exceptions.md R100). Everything else is unspecified (R101). -/
def Faults (record : FaultRecord) (s t : State) : Prop :=
  t.status = .faulted record ∧ t.statusOut = .fatal record ∧ t.pc = s.pc

/-- A timer after one tick: one less, never below 0 (10_state.md R19). -/
def TickedTo (before after : Byte) : Prop := after.toNat = before.toNat - 1

/-- The word at the pc, its first byte the high byte (20_memory.md R30). -/
def wordAtPc (s : State) : Word :=
  BitVec.ofNat 16 ((s.mem.read s.pc.toNat).toNat * 256 + (s.mem.read (s.pc.toNat + 1)).toNat)

/-- The block can run a cycle: a program is loaded and no fatal error has happened. -/
def Ready (s : State) : Prop := s.load = .loaded ∧ s.status = .running

/-- The next cycle fetches and decodes instruction `i`. -/
def Runs (s : State) (i : Instr) : Prop :=
  Ready s ∧ s.pc.toNat + 1 ≤ 0xFFF ∧ decode (wordAtPc s) = .instr i

/-- INVARIANT: memory is in its canonical form. -/
def MemoryInv (s : State) : Prop := s.mem.wf = true

/-- INVARIANT: while the block runs, the pc is at most 0x10FE and every return address on the stack at most 0x1000, so
that no pc arithmetic wraps (10_state.md R17; 41_control_flow.md R65). -/
def PcInv (s : State) : Prop :=
  s.status = .running →
    s.pc.toNat ≤ 0x10FE ∧ ∀ k : Fin 16, k.val < s.sp.val → (s.stack.get k).toNat ≤ 0x1000

/-- Whether a sprite of `h` rows at `base`, drawn from column `x0` and row `y0`, has a set bit on the pixel at column
`px` and row `py`: columns and rows wrap, and a row's most significant bit is its leftmost (47_display.md R97). -/
def spriteBit (m : Memory) (base h x0 y0 : Nat) (px : Fin 64) (py : Fin 32) : Bool :=
  let c := (px.val + 64 - x0 % 64) % 64
  let r := (py.val + 32 - y0 % 32) % 32
  decide (c < 8) && decide (r < h) && (m.read (base + r)).getLsbD (7 - c)

/-- The sprite of DRW x, y, n in state `s`. -/
def spriteOf (x y : Reg) (n : BitVec 4) (s : State) (px : Fin 64) (py : Fin 32) : Bool :=
  spriteBit s.mem s.i.toNat n.toNat (s.getV x).toNat (s.getV y).toNat px py

/-- The fatal error of `len` accesses from I up: the first address past memory (20_memory.md R29; 60_exceptions.md
R103). -/
def rangeFault (op : Word) (len : Nat) (s : State) : Option FaultRecord :=
  if len ≠ 0 ∧ s.i.toNat + len > 4096 then some (.outOfRange s.pc op (max s.i.toNat 4096)) else none

/-- The fatal error of a key index taken from V[x] (46_timers_keys.md R94, R95). -/
def keyFault (op : Word) (x : Reg) (s : State) : Option FaultRecord :=
  if (s.getV x).toNat ≥ 16 then some (.outOfRange s.pc op (s.getV x).toNat) else none

/-- The fatal error an instruction raises in a state, as the table of 60_exceptions.md R99 lists them. -/
def instrFault (op : Word) (s : State) : Instr → Option FaultRecord
  | .call _ => if s.sp.val = 16 then some (.stackOverflow s.pc op) else none
  | .ret _ => if s.sp.val = 0 then some (.stackUnderflow s.pc op) else none
  | .drw _ _ n => rangeFault op n.toNat s
  | .ldB _ => rangeFault op 3 s
  | .ldMemVx x => rangeFault op (x.val + 1) s
  | .ldVxMem x => rangeFault op (x.val + 1) s
  | .skp x => keyFault op x s
  | .sknp x => keyFault op x s
  | .sys _ => none
  | .cls _ => none
  | .jp _ => none
  | .seImm _ _ => none
  | .sneImm _ _ => none
  | .seReg _ _ _ => none
  | .ldImm _ _ => none
  | .addImm _ _ => none
  | .ldReg _ _ => none
  | .orReg _ _ => none
  | .andReg _ _ => none
  | .xorReg _ _ => none
  | .addReg _ _ => none
  | .sub _ _ => none
  | .shr _ _ => none
  | .subn _ _ => none
  | .shl _ _ => none
  | .sneReg _ _ _ => none
  | .ldI _ => none
  | .jpV0 _ => none
  | .rnd _ _ => none
  | .ldVxDt _ => none
  | .ldVxK _ => none
  | .ldDtVx _ => none
  | .ldStVx _ => none
  | .addI _ => none
  | .ldF _ => none

/-- The fatal error of the next cycle of a running block, none where there is none (60_exceptions.md R99, R103). -/
def fatalCause (s : State) : Option FaultRecord :=
  if s.pc.toNat + 1 > 0xFFF then some (.fetchOutOfRange s.pc)
  else
    match decode (wordAtPc s) with
    | .unknown _ => none
    | .instr i => instrFault (wordAtPc s) s i

/-- The registers an instruction may write (10_state.md R14). -/
def mayWriteReg (i : Instr) (r : Reg) : Bool :=
  match i with
  | .ldImm x _ | .addImm x _ | .rnd x _ | .ldVxDt x | .ldVxK x => r == x
  | .ldReg x _ | .orReg x _ | .andReg x _ | .xorReg x _ => r == x
  | .addReg x _ | .sub x _ | .shr x _ | .subn x _ | .shl x _ => r == x || r == 15
  | .drw _ _ _ | .addI _ => r == 15
  | .ldVxMem x => decide (r ≤ x)
  | _ => false

/-- The instructions that write a flag to VF (10_state.md R15). -/
def writesFlag : Instr → Bool
  | .addReg _ _ | .sub _ _ | .subn _ _ | .shr _ _ | .shl _ _ | .drw _ _ _ | .addI _ => true
  | _ => false

/-- The instructions that write I (10_state.md R16). -/
def writesIndex : Instr → Bool
  | .ldI _ | .ldF _ | .addI _ | .ldMemVx _ | .ldVxMem _ => true
  | _ => false

/-- The instructions that push or pop (10_state.md R18). -/
def writesStack : Instr → Bool
  | .call _ | .ret _ => true
  | _ => false

/-- The instructions that store to memory (20_memory.md R28). -/
def writesMemory : Instr → Bool
  | .ldB _ | .ldMemVx _ => true
  | _ => false

/-- The instructions that write the framebuffer and set dirty (10_state.md R20, R21). -/
def writesDisplay : Instr → Bool
  | .cls _ | .drw _ _ _ => true
  | _ => false

end Sys2Proof.Safety
end

