-- ==== Sys2Proof/Certificates/Slice0/Obligations.lean ====
section
/-! DEFINITION. The statements for the provers. Each docstring names the rule of spec/ it formalises; where a clause
rests on a decision of the spec (D<n>) or on the model's own choice (entry <n>), it says so. -/

open Sys2Proof Sys2Proof.Machine Sys2Proof.Safety

/-! ## Encoding (30_encoding.md) -/

/-- R46, R47, for both values of DECODE_STRICT: every well-formed instruction is what its word decodes to. -/
def Obligations.DecodeOfEncodeIsTheInstruction : Prop :=
  ∀ (p : Params) (i : Instr), i.wellFormedWith p = true → decodeWith p (encode i) = .instr i

/-- R46, R47: a word that decodes to an instruction is that instruction's word, and the instruction is well-formed. No
bit of a word is lost, so the word a fault record holds is the word that was fetched (entry 11). -/
def Obligations.EncodeOfDecodeIsTheWord : Prop :=
  ∀ (p : Params) (op : Word) (i : Instr), decodeWith p op = .instr i → encode i = op ∧ i.wellFormedWith p = true

/-- R49: the Unknown words, for both values of DECODE_STRICT; an Unknown names its own word. -/
def Obligations.UnknownWordsAreExactlyTheListed : Prop :=
  ∀ (p : Params) (op w : Word), decodeWith p op = .unknown w ↔
    w = op ∧
    ((op.toNat / 4096 = 0x8 ∧ op.toNat % 16 ∈ [0x8, 0x9, 0xA, 0xB, 0xC, 0xD, 0xF]) ∨
     (op.toNat / 4096 = 0xE ∧ op.toNat % 256 ∉ [0x9E, 0xA1]) ∨
     (op.toNat / 4096 = 0xF ∧ op.toNat % 256 ∉ [0x07, 0x0A, 0x15, 0x18, 0x1E, 0x29, 0x33, 0x55, 0x65]) ∨
     (p.decodeStrict = true ∧ (op.toNat / 4096 = 0x5 ∨ op.toNat / 4096 = 0x9) ∧ op.toNat % 16 ≠ 0))

/-- R48: the decoder agrees with a lookup in the opcode table by mask and match, SYS last; a word no row matches is
Unknown. -/
def Obligations.DecodeAgreesWithTheOpcodeTable : Prop :=
  ∀ op : Word,
    match decode op with
    | .instr i => lookup op = some (rowOf i)
    | .unknown w => w = op ∧ lookup op = none

/-- R43, R47 (§8 of the source): some words written out bit by bit. -/
def Obligations.SourceExampleWordsDecode : Prop :=
  [0x6005#16, 0xA050#16, 0xD005#16, 0x1200#16].map decode =
      [.instr (.ldImm 0 0x05), .instr (.ldI 0x050), .instr (.drw 0 0 5), .instr (.jp 0x200)] ∧
    [0x00E0#16, 0x00EE#16, 0x8AB6#16, 0xE39E#16, 0xF255#16, 0xC10F#16, 0x8008#16].map decode =
      [.instr (.cls 0), .instr (.ret 0), .instr (.shr 10 11), .instr (.skp 3), .instr (.ldMemVx 2),
       .instr (.rnd 1 0x0F), .unknown 0x8008]

/-! ## Control flow (41_control_flow.md) -/

/-- R62 (the entry and its no-op meaning are the spec's decision D3): every group-0 word that is not CLS or RET. -/
def Obligations.SysDoesNothing : Prop :=
  ∀ (nnn : BitVec 12) (s : State),
    (nnn.toNat % 256 ≠ 0xE0 → nnn.toNat % 256 ≠ 0xEE → decode (wordNNN 0x0 nnn) = .instr (.sys nnn)) ∧
    ∃ t, exec (.sys nnn) s = .next t ∧ Completes (s.pc + 2) s t ∧ KeepsAllButPc s t

/-- R64, and what it says of NNN = 0xFFF and of a jump to itself. -/
def Obligations.JumpSetsPcToTheAddress : Prop :=
  ∀ (nnn : BitVec 12) (s : State),
    decode (wordNNN 0x1 nnn) = .instr (.jp nnn) ∧
    ∃ t, exec (.jp nnn) s = .next t ∧ Completes (BitVec.ofNat 16 nnn.toNat) s t ∧ KeepsAllButPc s t ∧
      t.pc.toNat = nnn.toNat ∧ (nnn.toNat = 0xFFF → t.endCycle.fetch = .error (.fetchOutOfRange 0xFFF))

/-- R65, R18 (which slot and which way SP moves: D29): a call with room on the stack, and a call with 16 return addresses
already there. That the overflow is a next state, Faulted with the pc kept, is R100 and R101 (D13; entry 3). -/
def Obligations.CallPushesTheNextAddress : Prop :=
  ∀ (nnn : BitVec 12) (s : State),
    decode (wordNNN 0x2 nnn) = .instr (.call nnn) ∧
    (s.sp.val < 16 →
      ∃ t, exec (.call nnn) s = .next t ∧ Completes (BitVec.ofNat 16 nnn.toNat) s t ∧
        t.sp.val = s.sp.val + 1 ∧
        (∀ k : Fin 16, t.stack.get k = if k.val = s.sp.val then s.pc + 2 else s.stack.get k) ∧
        KeepsRegs s t ∧ t.i = s.i ∧ KeepsTimers s t ∧ KeepsMemory s t ∧ KeepsDisplay s t) ∧
    (s.sp.val = 16 →
      ∃ t, exec (.call nnn) s = .next t ∧ Faults (.stackOverflow s.pc (wordNNN 0x2 nnn)) s t)

/-- R63, R18 (which slot: D29): a return pops the top slot into the pc and leaves the slot; on an empty stack,
StackUnderflow. That every 0XEE word is RET is the spec's decision D4 (entry 9); that the underflow is a next state, Faulted
with the pc kept, is R100 and R101 (D13; entry 3). -/
def Obligations.ReturnPopsThePc : Prop :=
  ∀ (x : Reg) (s : State),
    decode (wordXNN 0x0 x 0xEE) = .instr (.ret x) ∧
    (∀ k : Fin 16, s.sp.val = k.val + 1 →
      ∃ t, exec (.ret x) s = .next t ∧ Completes (s.stack.get k) s t ∧ t.sp.val = k.val ∧ t.stack = s.stack ∧
        KeepsRegs s t ∧ t.i = s.i ∧ KeepsTimers s t ∧ KeepsMemory s t ∧ KeepsDisplay s t) ∧
    (s.sp.val = 0 →
      ∃ t, exec (.ret x) s = .next t ∧ Faults (.stackUnderflow s.pc (wordXNN 0x0 x 0xEE)) s t)

/-- R63, R65: a return right after a call resumes after the call site with the stack as deep as before, whatever the
callee's address. -/
def Obligations.ReturnAfterCallResumes : Prop :=
  ∀ (nnn : BitVec 12) (x : Reg) (s t : State), s.sp.val < 16 → exec (.call nnn) s = .next t →
    ∃ u, exec (.ret x) t.endCycle = .next u ∧ u.pc = s.pc + 2 ∧ u.sp = s.sp ∧ u.status = s.status

/-- R66, R67: the skips on a literal. -/
def Obligations.SkipOnALiteral : Prop :=
  ∀ (x : Reg) (nn : Byte) (s : State),
    (decode (wordXNN 0x3 x nn) = .instr (.seImm x nn) ∧ decode (wordXNN 0x4 x nn) = .instr (.sneImm x nn)) ∧
    (∃ t, exec (.seImm x nn) s = .next t ∧
      Completes (if s.getV x = nn then s.pc + 4 else s.pc + 2) s t ∧ KeepsAllButPc s t) ∧
    ∃ t, exec (.sneImm x nn) s = .next t ∧
      Completes (if s.getV x ≠ nn then s.pc + 4 else s.pc + 2) s t ∧ KeepsAllButPc s t

/-- R68, R69 (that N is ignored is the spec's decision D4): the skips on two registers. -/
def Obligations.SkipOnTwoRegisters : Prop :=
  ∀ (x y : Reg) (n : BitVec 4) (s : State),
    (decode (wordXYN 0x5 x y n) = .instr (.seReg x y n) ∧ decode (wordXYN 0x9 x y n) = .instr (.sneReg x y n)) ∧
    (∃ t, exec (.seReg x y n) s = .next t ∧
      Completes (if s.getV x = s.getV y then s.pc + 4 else s.pc + 2) s t ∧ KeepsAllButPc s t) ∧
    ∃ t, exec (.sneReg x y n) s = .next t ∧
      Completes (if s.getV x ≠ s.getV y then s.pc + 4 else s.pc + 2) s t ∧ KeepsAllButPc s t

/-- R70 (that the target is not masked to 12 bits is the spec's decision D9): a target that no 16-bit sum wraps, and a
next fetch past memory where it is above 0xFFE. -/
def Obligations.JumpWithOffsetAddsV0 : Prop :=
  ∀ (nnn : BitVec 12) (s : State),
    decode (wordNNN 0xB nnn) = .instr (.jpV0 nnn) ∧
    ∃ t, exec (.jpV0 nnn) s = .next t ∧ Completes t.pc s t ∧ t.pc.toNat = nnn.toNat + (s.getV 0).toNat ∧
      KeepsAllButPc s t ∧ (t.pc.toNat > 0xFFE → t.endCycle.fetch = .error (.fetchOutOfRange t.pc))

/-! ## Load and compute (42_load_compute.md) -/

/-- R71, R73. -/
def Obligations.LoadLiteralAndCopy : Prop :=
  ∀ (x y : Reg) (nn : Byte) (s : State),
    (decode (wordXNN 0x6 x nn) = .instr (.ldImm x nn) ∧ decode (wordXYN 0x8 x y 0x0) = .instr (.ldReg x y)) ∧
    (∃ t, exec (.ldImm x nn) s = .next t ∧ Completes (s.pc + 2) s t ∧ WritesReg x nn s t ∧ KeepsAllButRegs s t) ∧
    ∃ t, exec (.ldReg x y) s = .next t ∧ Completes (s.pc + 2) s t ∧ WritesReg x (s.getV y) s t ∧ KeepsAllButRegs s t

/-- R72: mod 256, and VF keeps its value unless it is the destination. -/
def Obligations.AddLiteralTouchesNoFlag : Prop :=
  ∀ (x : Reg) (nn : Byte) (s : State),
    decode (wordXNN 0x7 x nn) = .instr (.addImm x nn) ∧
    ∃ t, exec (.addImm x nn) s = .next t ∧ Completes (s.pc + 2) s t ∧ KeepsAllButRegs s t ∧
      (t.getV x).toNat = ((s.getV x).toNat + nn.toNat) % 256 ∧ ∀ r, r ≠ x → t.getV r = s.getV r

/-- R74, R75, R76: bit by bit, with no flag (that VF is left alone is the spec's decision D5). -/
def Obligations.BitwiseOperationsTouchNoFlag : Prop :=
  ∀ (x y : Reg) (s : State),
    (decode (wordXYN 0x8 x y 0x1) = .instr (.orReg x y) ∧ decode (wordXYN 0x8 x y 0x2) = .instr (.andReg x y) ∧
      decode (wordXYN 0x8 x y 0x3) = .instr (.xorReg x y)) ∧
    (∃ t, exec (.orReg x y) s = .next t ∧ Completes (s.pc + 2) s t ∧ KeepsAllButRegs s t ∧
      (∀ k, k < 8 → (t.getV x).getLsbD k = ((s.getV x).getLsbD k || (s.getV y).getLsbD k)) ∧
      ∀ r, r ≠ x → t.getV r = s.getV r) ∧
    (∃ t, exec (.andReg x y) s = .next t ∧ Completes (s.pc + 2) s t ∧ KeepsAllButRegs s t ∧
      (∀ k, k < 8 → (t.getV x).getLsbD k = ((s.getV x).getLsbD k && (s.getV y).getLsbD k)) ∧
      ∀ r, r ≠ x → t.getV r = s.getV r) ∧
    ∃ t, exec (.xorReg x y) s = .next t ∧ Completes (s.pc + 2) s t ∧ KeepsAllButRegs s t ∧
      (∀ k, k < 8 → (t.getV x).getLsbD k = ((s.getV x).getLsbD k ^^ (s.getV y).getLsbD k)) ∧
      ∀ r, r ≠ x → t.getV r = s.getV r

/-! ## Arithmetic and shifts (43_arith_shift.md) -/

/-- R77 (that the flag lands last where X = F is the spec's decision D5). -/
def Obligations.AddSetsCarry : Prop :=
  ∀ (x y : Reg) (s : State),
    decode (wordXYN 0x8 x y 0x4) = .instr (.addReg x y) ∧
    ∃ t, exec (.addReg x y) s = .next t ∧ Completes (s.pc + 2) s t ∧ KeepsAllButRegs s t ∧
      WritesRegAndFlag x (BitVec.ofNat 8 (((s.getV x).toNat + (s.getV y).toNat) % 256))
        (if (s.getV x).toNat + (s.getV y).toNat > 255 then 1 else 0) s t

/-- R78, R79 (X = F: D5): VF is 0 on a borrow and 1 on none. -/
def Obligations.SubtractSetsNotBorrow : Prop :=
  ∀ (x y : Reg) (s : State),
    (decode (wordXYN 0x8 x y 0x5) = .instr (.sub x y) ∧ decode (wordXYN 0x8 x y 0x7) = .instr (.subn x y)) ∧
    (∃ t, exec (.sub x y) s = .next t ∧ Completes (s.pc + 2) s t ∧ KeepsAllButRegs s t ∧
      WritesRegAndFlag x (s.getV x - s.getV y)
        (if (s.getV y).toNat > (s.getV x).toNat then 0 else 1) s t) ∧
    ∃ t, exec (.subn x y) s = .next t ∧ Completes (s.pc + 2) s t ∧ KeepsAllButRegs s t ∧
      WritesRegAndFlag x (s.getV y - s.getV x)
        (if (s.getV x).toNat > (s.getV y).toNat then 0 else 1) s t

/-- R80, R81 (that the source is V[Y] is the spec's decision D6; X = F: D5): bit by bit, with the bit shifted out in VF
and V[Y] unchanged unless it is a destination. -/
def Obligations.ShiftsMoveOneBitFromVy : Prop :=
  ∀ (x y : Reg) (s : State),
    (decode (wordXYN 0x8 x y 0x6) = .instr (.shr x y) ∧ decode (wordXYN 0x8 x y 0xE) = .instr (.shl x y)) ∧
    (∃ t, exec (.shr x y) s = .next t ∧ Completes (s.pc + 2) s t ∧ KeepsAllButRegs s t ∧
      t.getV 15 = (if (s.getV y).getLsbD 0 then 1 else 0) ∧
      (x ≠ 15 → ∀ k, k < 8 → (t.getV x).getLsbD k = (s.getV y).getLsbD (k + 1)) ∧
      ∀ r, r ≠ x → r ≠ 15 → t.getV r = s.getV r) ∧
    ∃ t, exec (.shl x y) s = .next t ∧ Completes (s.pc + 2) s t ∧ KeepsAllButRegs s t ∧
      t.getV 15 = (if (s.getV y).getLsbD 7 then 1 else 0) ∧
      (x ≠ 15 → (t.getV x).getLsbD 0 = false ∧
        ∀ k, k < 7 → (t.getV x).getLsbD (k + 1) = (s.getV y).getLsbD k) ∧
      ∀ r, r ≠ x → r ≠ 15 → t.getV r = s.getV r

/-- R15 (the order of the writes: D5): the seven flag writers leave VF exactly 0 or 1 where they raise no error, and
every other instruction leaves VF alone unless VF is its destination. -/
def Obligations.OnlySevenInstructionsWriteAFlag : Prop :=
  ∀ (i : Instr) (s t : State), exec i s = .next t → t.status = .running →
    (writesFlag i = true → t.getV 15 = 0 ∨ t.getV 15 = 1) ∧
    (writesFlag i = false → mayWriteReg i 15 = false → t.getV 15 = s.getV 15)

/-! ## Random (44_random.md) -/

/-- R83: this cycle's rand8 under the mask, for every value the host may drive (the form of the input is the model's,
entry 1). -/
def Obligations.RandomMasksTheByte : Prop :=
  ∀ (x : Reg) (nn : Byte) (s : State),
    decode (wordXNN 0xC x nn) = .instr (.rnd x nn) ∧
    ∃ t, exec (.rnd x nn) s = .next t ∧ Completes (s.pc + 2) s t ∧ KeepsAllButRegs s t ∧
      (∀ k, k < 8 → (t.getV x).getLsbD k = (s.input.rand8.getLsbD k && nn.getLsbD k)) ∧
      ∀ r, r ≠ x → t.getV r = s.getV r

/-- R83: only CXNN consumes rand8. With another byte driven for this cycle, every other instruction does exactly the
same (where it raises a fatal error, what it leaves unspecified is not compared). -/
def Obligations.OnlyRandomReadsTheRandomByte : Prop :=
  ∀ (i : Instr) (s t : State) (input : CycleInput) (rest : List CycleInput) (byte : Byte),
    (∀ x nn, i ≠ .rnd x nn) → s.inputs = input :: rest → exec i s = .next t → t.status = .running →
    exec i { s with inputs := { input with rand8 := byte } :: rest } =
      .next { t with inputs := { input with rand8 := byte } :: rest }

/-! ## Index register and memory (45_memory_index.md) -/

/-- R84. -/
def Obligations.LoadIndexSetsI : Prop :=
  ∀ (nnn : BitVec 12) (s : State),
    decode (wordNNN 0xA nnn) = .instr (.ldI nnn) ∧
    ∃ t, exec (.ldI nnn) s = .next t ∧ Completes (s.pc + 2) s t ∧ t.i.toNat = nnn.toNat ∧ t.i.toNat ≤ 0xFFF ∧
      KeepsRegs s t ∧ KeepsStack s t ∧ KeepsTimers s t ∧ KeepsMemory s t ∧ KeepsDisplay s t

/-- R85 (VF = 0 without overflow: D7; I not masked to 12 bits: D9). -/
def Obligations.AddToIndexFlagsOverflow : Prop :=
  ∀ (x : Reg) (s : State),
    decode (wordXNN 0xF x 0x1E) = .instr (.addI x) ∧
    ∃ t, exec (.addI x) s = .next t ∧ Completes (s.pc + 2) s t ∧
      t.i.toNat = (s.i.toNat + (s.getV x).toNat) % 65536 ∧
      t.getV 15 = (if s.i.toNat + (s.getV x).toNat > 0xFFF then 1 else 0) ∧
      (∀ r, r ≠ 15 → t.getV r = s.getV r) ∧
      KeepsStack s t ∧ KeepsTimers s t ∧ KeepsMemory s t ∧ KeepsDisplay s t

/-- R86 (no mask on the digit: D8): I = 5 * V[X], which for a digit up to F is where the glyph's bytes stand at reset. -/
def Obligations.FontAddressIsFiveTimesTheDigit : Prop :=
  ∀ (x : Reg) (s : State),
    decode (wordXNN 0xF x 0x29) = .instr (.ldF x) ∧
    ∃ t, exec (.ldF x) s = .next t ∧ Completes (s.pc + 2) s t ∧ t.i.toNat = 5 * (s.getV x).toNat ∧
      KeepsRegs s t ∧ KeepsStack s t ∧ KeepsTimers s t ∧ KeepsMemory s t ∧ KeepsDisplay s t

/-- R87: the three digits at I, I+1, I+2 and no other byte changed; OutOfRange where I + 2 is past memory. That the fault
is a next state, Faulted with the pc kept, is R100 and R101 (D13; entry 3), and that it reports the first address past
memory R103. The premise on memory is the invariant MemoryInv. -/
def Obligations.DecimalDigitsAreStored : Prop :=
  ∀ (x : Reg) (s : State),
    decode (wordXNN 0xF x 0x33) = .instr (.ldB x) ∧
    (MemoryInv s → s.i.toNat + 2 < 4096 →
      ∃ t, exec (.ldB x) s = .next t ∧ Completes (s.pc + 2) s t ∧
        (t.mem.read s.i.toNat).toNat = (s.getV x).toNat / 100 ∧
        (t.mem.read (s.i.toNat + 1)).toNat = (s.getV x).toNat / 10 % 10 ∧
        (t.mem.read (s.i.toNat + 2)).toNat = (s.getV x).toNat % 10 ∧
        (∀ a, a ≠ s.i.toNat → a ≠ s.i.toNat + 1 → a ≠ s.i.toNat + 2 → t.mem.read a = s.mem.read a) ∧
        KeepsRegs s t ∧ t.i = s.i ∧ KeepsStack s t ∧ KeepsTimers s t ∧ KeepsDisplay s t) ∧
    (s.i.toNat + 2 ≥ 4096 →
      ∃ t, exec (.ldB x) s = .next t ∧
        Faults (.outOfRange s.pc (wordXNN 0xF x 0x33) (max s.i.toNat 4096)) s t)

/-- R88 (I wraps mod 65536: D9): V0 to VX stored in order, I advanced, no other byte changed; else the fault of R100, R101
(D13; entry 3) with the first address past memory (R103). -/
def Obligations.RegisterDumpStoresInOrder : Prop :=
  ∀ (x : Reg) (s : State),
    decode (wordXNN 0xF x 0x55) = .instr (.ldMemVx x) ∧
    (MemoryInv s → s.i.toNat + x.val < 4096 →
      ∃ t, exec (.ldMemVx x) s = .next t ∧ Completes (s.pc + 2) s t ∧
        t.i.toNat = (s.i.toNat + x.val + 1) % 65536 ∧
        (∀ r : Reg, r ≤ x → t.mem.read (s.i.toNat + r.val) = s.getV r) ∧
        (∀ a, (∀ r : Reg, r ≤ x → a ≠ s.i.toNat + r.val) → t.mem.read a = s.mem.read a) ∧
        KeepsRegs s t ∧ KeepsStack s t ∧ KeepsTimers s t ∧ KeepsDisplay s t) ∧
    (s.i.toNat + x.val ≥ 4096 →
      ∃ t, exec (.ldMemVx x) s = .next t ∧
        Faults (.outOfRange s.pc (wordXNN 0xF x 0x55) (max s.i.toNat 4096)) s t)

/-- R89 (I wraps mod 65536: D9): V0 to VX loaded in order, VF as data, I advanced; else the fault of R100, R101 (D13;
entry 3) with the first address past memory (R103). -/
def Obligations.RegisterLoadReadsInOrder : Prop :=
  ∀ (x : Reg) (s : State),
    decode (wordXNN 0xF x 0x65) = .instr (.ldVxMem x) ∧
    (s.i.toNat + x.val < 4096 →
      ∃ t, exec (.ldVxMem x) s = .next t ∧ Completes (s.pc + 2) s t ∧
        t.i.toNat = (s.i.toNat + x.val + 1) % 65536 ∧
        (∀ r : Reg, t.getV r = if r ≤ x then s.mem.read (s.i.toNat + r.val) else s.getV r) ∧
        KeepsStack s t ∧ KeepsTimers s t ∧ KeepsMemory s t ∧ KeepsDisplay s t) ∧
    (s.i.toNat + x.val ≥ 4096 →
      ∃ t, exec (.ldVxMem x) s = .next t ∧
        Faults (.outOfRange s.pc (wordXNN 0xF x 0x65) (max s.i.toNat 4096)) s t)

/-- R38, R88, R89: what a dump stored, a load with I set back reads again, whatever has happened to V0 to VX between. -/
def Obligations.DumpThenLoadRestoresTheRegisters : Prop :=
  ∀ (x : Reg) (s t : State) (v : Vector Byte 16), MemoryInv s → exec (.ldMemVx x) s = .next t → t.status = .running →
    ∃ u, exec (.ldVxMem x) { t.endCycle with v := v, i := s.i } = .next u ∧ u.i = t.i ∧
      ∀ r : Reg, r ≤ x → u.getV r = s.getV r

/-- R40, FX55 storing over the next instruction: two registers r and r+1 over both its bytes, V0 over its second byte, VX
over its first. A byte the dump does not reach is fetched as it was. -/
def Obligations.FetchSeesTheWordJustStored : Prop :=
  ∀ (x : Reg) (s t : State), MemoryInv s → exec (.ldMemVx x) s = .next t → t.status = .running →
    (∀ r r' : Reg, s.pc.toNat + 2 = s.i.toNat + r.val → r'.val = r.val + 1 → r' ≤ x →
      t.endCycle.fetch = .ok (BitVec.ofNat 16 ((s.getV r).toNat * 256 + (s.getV r').toNat))) ∧
    (s.pc.toNat + 3 = s.i.toNat →
      t.endCycle.fetch = .ok (BitVec.ofNat 16 ((s.mem.read (s.pc.toNat + 2)).toNat * 256 + (s.getV 0).toNat))) ∧
    (s.pc.toNat + 2 = s.i.toNat + x.val → s.pc.toNat + 3 ≤ 0xFFF →
      t.endCycle.fetch = .ok (BitVec.ofNat 16 ((s.getV x).toNat * 256 + (s.mem.read (s.pc.toNat + 3)).toNat)))

/-- R40, FX33 storing over the next instruction: two digits over both its bytes, the hundreds over its second byte, the
ones over its first. A byte the store does not reach is fetched as it was. -/
def Obligations.FetchSeesTheDigitsJustStored : Prop :=
  ∀ (x : Reg) (s t : State), MemoryInv s → exec (.ldB x) s = .next t → t.status = .running →
    (s.pc.toNat + 2 = s.i.toNat →
      t.endCycle.fetch = .ok (BitVec.ofNat 16 ((s.getV x).toNat / 100 * 256 + (s.getV x).toNat / 10 % 10))) ∧
    (s.pc.toNat + 2 = s.i.toNat + 1 →
      t.endCycle.fetch = .ok (BitVec.ofNat 16 ((s.getV x).toNat / 10 % 10 * 256 + (s.getV x).toNat % 10))) ∧
    (s.pc.toNat + 3 = s.i.toNat →
      t.endCycle.fetch =
        .ok (BitVec.ofNat 16 ((s.mem.read (s.pc.toNat + 2)).toNat * 256 + (s.getV x).toNat / 100))) ∧
    (s.pc.toNat + 2 = s.i.toNat + 2 → s.pc.toNat + 3 ≤ 0xFFF →
      t.endCycle.fetch =
        .ok (BitVec.ofNat 16 ((s.getV x).toNat % 10 * 256 + (s.mem.read (s.pc.toNat + 3)).toNat)))

/-! ## Timers and keys (46_timers_keys.md) -/

/-- R90, R91, R92: the timer moves, and what the tick of the same cycle then leaves. -/
def Obligations.TimerMovesAndTheirTick : Prop :=
  ∀ (x : Reg) (s : State),
    (decode (wordXNN 0xF x 0x07) = .instr (.ldVxDt x) ∧ decode (wordXNN 0xF x 0x15) = .instr (.ldDtVx x) ∧
      decode (wordXNN 0xF x 0x18) = .instr (.ldStVx x)) ∧
    (∃ t, exec (.ldVxDt x) s = .next t ∧ Completes (s.pc + 2) s t ∧ WritesReg x s.dt s t ∧ KeepsAllButRegs s t ∧
      TickedTo s.dt t.endCycle.dt) ∧
    (∃ t, exec (.ldDtVx x) s = .next t ∧ Completes (s.pc + 2) s t ∧ t.dt = s.getV x ∧ t.st = s.st ∧
      KeepsRegs s t ∧ t.i = s.i ∧ KeepsStack s t ∧ KeepsMemory s t ∧ KeepsDisplay s t ∧
      TickedTo (s.getV x) t.endCycle.dt) ∧
    ∃ t, exec (.ldStVx x) s = .next t ∧ Completes (s.pc + 2) s t ∧ t.st = s.getV x ∧ t.dt = s.dt ∧
      KeepsRegs s t ∧ t.i = s.i ∧ KeepsStack s t ∧ KeepsMemory s t ∧ KeepsDisplay s t ∧
      TickedTo (s.getV x) t.endCycle.st ∧ (s.beep = false → (t.endCycle.beep = true ↔ s.getV x = 1))

/-- R117: a timer set to v reads v - 1 in the next cycle (0 where v is 0). -/
def Obligations.TimerReadsOneLessInTheNextCycle : Prop :=
  ∀ (x y : Reg) (s t : State), exec (.ldDtVx x) s = .next t →
    ∃ u, exec (.ldVxDt y) t.endCycle.beginCycle = .next u ∧ (u.getV y).toNat = (s.getV x).toNat - 1

/-- R93, R55 (level and lowest key: D11): with no key pressed nothing changes but the status output; with keys pressed,
the lowest is stored. -/
def Obligations.KeyWaitTakesTheLowestKey : Prop :=
  ∀ (x : Reg) (s : State),
    decode (wordXNN 0xF x 0x0A) = .instr (.ldVxK x) ∧
    ((∀ k, k < 16 → s.input.keys.getLsbD k = false) →
      exec (.ldVxK x) s = .next { s with statusOut := .awaitingInput }) ∧
    ∀ k, k < 16 → s.input.keys.getLsbD k = true → (∀ j, j < k → s.input.keys.getLsbD j = false) →
      ∃ t, exec (.ldVxK x) s = .next t ∧ Completes (s.pc + 2) s t ∧
        WritesReg x (BitVec.ofNat 8 k) s t ∧ KeepsAllButRegs s t

/-- R94, R95 (an index of 16 or more is OutOfRange: D12; a next state, Faulted with the pc kept: R100, R101, D13,
entry 3). -/
def Obligations.SkipOnAKey : Prop :=
  ∀ (x : Reg) (s : State),
    (decode (wordXNN 0xE x 0x9E) = .instr (.skp x) ∧ decode (wordXNN 0xE x 0xA1) = .instr (.sknp x)) ∧
    ((s.getV x).toNat < 16 →
      (∃ t, exec (.skp x) s = .next t ∧ KeepsAllButPc s t ∧
        Completes (if s.input.keys.getLsbD (s.getV x).toNat then s.pc + 4 else s.pc + 2) s t) ∧
      ∃ t, exec (.sknp x) s = .next t ∧ KeepsAllButPc s t ∧
        Completes (if s.input.keys.getLsbD (s.getV x).toNat then s.pc + 2 else s.pc + 4) s t) ∧
    ((s.getV x).toNat ≥ 16 →
      (∃ t, exec (.skp x) s = .next t ∧ Faults (.outOfRange s.pc (wordXNN 0xE x 0x9E) (s.getV x).toNat) s t) ∧
      ∃ t, exec (.sknp x) s = .next t ∧ Faults (.outOfRange s.pc (wordXNN 0xE x 0xA1) (s.getV x).toNat) s t)

/-- R22, R104: only FX0A, EX9E and EXA1 read the keys. With other keys driven for this cycle, every other instruction
does exactly the same (where it raises a fatal error, what it leaves unspecified is not compared). -/
def Obligations.OnlyKeyInstructionsReadTheKeys : Prop :=
  ∀ (i : Instr) (s t : State) (input : CycleInput) (rest : List CycleInput) (keys : BitVec 16),
    (∀ x, i ≠ .ldVxK x ∧ i ≠ .skp x ∧ i ≠ .sknp x) → s.inputs = input :: rest → exec i s = .next t →
    t.status = .running →
    exec i { s with inputs := { input with keys := keys } :: rest } =
      .next { t with inputs := { input with keys := keys } :: rest }

/-! ## Display (47_display.md) -/

/-- R96 (the entry is the spec's decision D2; that every 0XE0 word is CLS is D4, entry 9): every pixel 0, dirty set, VF
unchanged. -/
def Obligations.ClearScreenClearsEveryPixel : Prop :=
  ∀ (x : Reg) (s : State),
    decode (wordXNN 0x0 x 0xE0) = .instr (.cls x) ∧
    ∃ t, exec (.cls x) s = .next t ∧ Completes (s.pc + 2) s t ∧ (∀ px py, pixel t.fb px py = false) ∧ t.dirty = true ∧
      KeepsRegs s t ∧ t.i = s.i ∧ KeepsStack s t ∧ KeepsTimers s t ∧ KeepsMemory s t

/-- R97: a draw inverts exactly the pixels under the sprite's set bits, wrapped at every edge; VF is 1 exactly where one
of them was 1, else 0; dirty is set on every draw. Where a row is past memory, the fault of R100, R101 (D13; entry 3) with
the first address past it (R103). -/
def Obligations.DrawInvertsExactlyTheSprite : Prop :=
  ∀ (x y : Reg) (n : BitVec 4) (s : State),
    decode (wordXYN 0xD x y n) = .instr (.drw x y n) ∧
    ((n.toNat = 0 ∨ s.i.toNat + n.toNat ≤ 4096) →
      ∃ t, exec (.drw x y n) s = .next t ∧ Completes (s.pc + 2) s t ∧
        (∀ px py, pixel t.fb px py = (pixel s.fb px py ^^ spriteOf x y n s px py)) ∧
        ((∃ px py, spriteOf x y n s px py = true ∧ pixel s.fb px py = true) → t.getV 15 = 1) ∧
        ((∀ px py, spriteOf x y n s px py = true → pixel s.fb px py = false) → t.getV 15 = 0) ∧
        t.dirty = true ∧ (∀ r, r ≠ 15 → t.getV r = s.getV r) ∧
        t.i = s.i ∧ KeepsStack s t ∧ KeepsTimers s t ∧ KeepsMemory s t) ∧
    (n.toNat ≠ 0 → s.i.toNat + n.toNat > 4096 →
      ∃ t, exec (.drw x y n) s = .next t ∧
        Faults (.outOfRange s.pc (wordXYN 0xD x y n) (max s.i.toNat 4096)) s t)

/-- R98 (a), its first sentence: the same sprite drawn twice at the same place restores every pixel. The second draw
collides exactly where a pixel under a set bit was 0 before the first (this follows from R97; entry 20 says what R98's
second sentence says instead). -/
def Obligations.DrawingTwiceRestoresEveryPixel : Prop :=
  ∀ (x y : Reg) (n : BitVec 4) (s t : State), exec (.drw x y n) s = .next t → t.status = .running →
    (t.getV x).toNat % 64 = (s.getV x).toNat % 64 → (t.getV y).toNat % 32 = (s.getV y).toNat % 32 →
    ∃ u, exec (.drw x y n) t.endCycle = .next u ∧ (∀ px py, pixel u.fb px py = pixel s.fb px py) ∧
      (u.getV 15 = 1 ↔ ∃ px py, spriteOf x y n s px py = true ∧ pixel s.fb px py = false)

/-- R98 (a), its second sentence as the spec words it, for a second draw right after the first: EXPECTED TO FAIL. A
pixel that was 1 before the first draw is 0 after it, so the second draw finds no collision there (entry 20). -/
def Obligations.SecondDrawCollidesWheneverTheSpriteHasABit : Prop :=
  ∀ (x y : Reg) (n : BitVec 4) (s t u : State), exec (.drw x y n) s = .next t → t.status = .running →
    (t.getV x).toNat % 64 = (s.getV x).toNat % 64 → (t.getV y).toNat % 32 = (s.getV y).toNat % 32 →
    exec (.drw x y n) t.endCycle = .next u →
    (u.getV 15 = 1 ↔ ∃ px py, spriteOf x y n s px py = true)

/-! ## The cycle (40_cycle.md, 60_exceptions.md) -/

/-- R51, R52: a step of a ready block whose word at the pc decodes to `i` is exec of `i` between the start and the end of
the cycle; and what those two do themselves: the start clears dirty where dirty_clear is pulsed (D28) and the beep, the
end moves to the next cycle's inputs (entry 1) and leaves all but the timers and the beep alone. -/
def Obligations.StepRunsTheDecodedInstruction : Prop :=
  ∀ (s : State) (i : Instr), Runs s i →
    s.beginCycle = { s with dirty := s.dirty && !s.input.dirtyClear, beep := false } ∧
    ∃ t, exec i s.beginCycle = .next t ∧ step s = .next t.endCycle ∧
      t.endCycle = { t with dt := t.endCycle.dt, st := t.endCycle.st, beep := t.endCycle.beep,
                            inputs := t.inputs.tail, cycle := t.cycle + 1 }

/-- R57 (no tick while waiting for a key: D10; the code 0 of Executed: D14): after an instruction that executed, both timers go down by one and stop
at 0, and the beep sounds exactly where ST was 1; after a key wait or a fatal error, neither. -/
def Obligations.TickFollowsEveryExecutedInstruction : Prop :=
  ∀ (s : State) (i : Instr), Runs s i →
    ∃ t u, exec i s.beginCycle = .next t ∧ step s = .next u ∧
      (t.statusOut = .executed → statusOutPort u = some 0 ∧
        TickedTo t.dt u.dt ∧ TickedTo t.st u.st ∧ (u.beep = true ↔ t.st = 1)) ∧
      (t.statusOut ≠ .executed → u.dt = t.dt ∧ u.st = t.st ∧ u.beep = false) ∧
      (t.statusOut = .executed ∨ t.statusOut = .awaitingInput ∨ ∃ record, t.statusOut = .fatal record)

/-- R54, R102: an Unknown word advances the pc by 2, is reported on the ports with its pc and word (the form is the spec's
decision D26, the code 1 D14), changes nothing else, ticks, and leaves the block running. -/
def Obligations.UnknownWordIsAReportedNoOp : Prop :=
  ∀ (s : State) (w : Word), Ready s → s.pc.toNat + 1 ≤ 0xFFF → decode (wordAtPc s) = .unknown w →
    ∃ u, step s = .next u ∧ u.pc = s.pc + 2 ∧ u.statusOut = .unknownOpcode s.pc (wordAtPc s) ∧
      statusOutPort u = some 1 ∧ infoPcPort u = some s.pc ∧ infoOpPort u = some (wordAtPc s) ∧
      u.status = .running ∧ KeepsRegs s u ∧ u.i = s.i ∧ KeepsStack s u ∧ KeepsMemory s u ∧ u.fb = s.fb ∧
      u.dirty = (s.dirty && !s.input.dirtyClear) ∧
      TickedTo s.dt u.dt ∧ TickedTo s.st u.st ∧ (u.beep = true ↔ s.st = 1)

/-- R30: a fetch up to 0xFFE reads two bytes, the first the high byte; past it, FetchOutOfRange, which records the pc. That
this is a next state, Faulted with the pc kept and no beep, is R51, R57, R100 and R101 (D13; entry 3). -/
def Obligations.FetchIsBigEndianOrFatal : Prop :=
  ∀ s : State,
    (s.pc.toNat + 1 ≤ 0xFFF → ∃ op, s.fetch = .ok op ∧
      op.toNat = (s.mem.read s.pc.toNat).toNat * 256 + (s.mem.read (s.pc.toNat + 1)).toNat) ∧
    (Ready s → s.pc.toNat + 1 > 0xFFF →
      ∃ u, step s = .next u ∧ Faults (.fetchOutOfRange s.pc) s u ∧ u.beep = false)

/-- R55 (D10; the code 2: D14): the cycle of a key wait with no key pressed, field by field. -/
def Obligations.KeyWaitCycleChangesNothing : Prop :=
  ∀ (s : State) (x : Reg), Runs s (.ldVxK x) → (∀ k, k < 16 → s.input.keys.getLsbD k = false) →
    ∃ u, step s = .next u ∧ u.pc = s.pc ∧ KeepsRegs s u ∧ u.i = s.i ∧ KeepsStack s u ∧ KeepsTimers s u ∧
      KeepsMemory s u ∧ u.fb = s.fb ∧ u.dirty = (s.dirty && !s.input.dirtyClear) ∧ u.status = s.status ∧
      u.statusOut = .awaitingInput ∧ statusOutPort u = some 2 ∧ u.beep = false

/-- R56 (D13), and R42 and U10: no cycle runs in status Faulted, and none before a program is loaded (how the two stop
is the model's, entries 4 and 5). -/
def Obligations.CyclesNeedALoadedRunningBlock : Prop :=
  ∀ s : State,
    (s.load ≠ .loaded → step s = .refused .notLoaded) ∧
    (∀ record, s.load = .loaded → s.status = .faulted record → step s = .fault .faultedStatus) ∧
    (Ready s → ∃ u, step s = .next u)

/-- R99, R103 (D12 for the key index; that a fatal error is the status Faulted: D13): a step of a running block is fatal
exactly in the cases the table lists, with the record the table gives; in every other case the block goes on running. -/
def Obligations.FatalErrorsAreExactlyTheListed : Prop :=
  ∀ s u : State, step s = .next u →
    u.status = match fatalCause s with
      | some record => .faulted record
      | none => .running

/-- R100, R101 (D13), R59 with the codes of D14: after a fatal cycle the pc is the faulting instruction's, the outputs
say Fatal with that pc, the word that was fetched, the error's code and, for OutOfRange, the address or key index; there is
no beep, and the next step has no next state. -/
def Obligations.FatalCycleIsReportedAndTerminal : Prop :=
  ∀ (s u : State) (record : FaultRecord), step s = .next u → u.status = .faulted record →
    u.pc = s.pc ∧ u.statusOut = .fatal record ∧ u.beep = false ∧
    statusOutPort u = some 3 ∧ infoPcPort u = some s.pc ∧ faultKindPort u = some record.kindCode ∧
    (s.pc.toNat + 1 ≤ 0xFFF → infoOpPort u = some (wordAtPc s)) ∧
    (∀ pc op index, record = .outOfRange pc op index → faultAddrPort u = some index) ∧
    step u = .fault .faultedStatus

/-- R21, R60 (D28), C10: after a cycle that goes on, dirty is set where CLS or DRW ran, whatever dirty_clear did before
the cycle; else it is what dirty_clear left. -/
def Obligations.DirtyAfterACycle : Prop :=
  ∀ s u : State, step s = .next u → u.status = .running →
    ((∃ i, decode (wordAtPc s) = .instr i ∧ writesDisplay i = true) → u.dirty = true) ∧
    ((∀ i, decode (wordAtPc s) = .instr i → writesDisplay i = false) →
      u.dirty = (s.dirty && !s.input.dirtyClear) ∧ u.fb = s.fb)

/-- R14, R16, R18, R19, R20, R28: which instructions write which part of the state, over all instructions. -/
def Obligations.OnlyTheNamedInstructionsWrite : Prop :=
  ∀ (i : Instr) (s t : State), exec i s = .next t → t.status = .running →
    (∀ r, mayWriteReg i r = false → t.getV r = s.getV r) ∧
    (writesIndex i = false → t.i = s.i) ∧
    (writesStack i = false → KeepsStack s t) ∧
    (writesMemory i = false → t.mem = s.mem) ∧
    (writesDisplay i = false → KeepsDisplay s t) ∧
    ((∀ x, i ≠ .ldDtVx x) → t.dt = s.dt) ∧
    ((∀ x, i ≠ .ldStVx x) → t.st = s.st) ∧
    s.status = .running ∧ t.beep = s.beep ∧ t.load = s.load ∧ t.inputs = s.inputs ∧ t.cycle = s.cycle

/-- R19, R21, R26: no instruction reads ST, dirty or an output of an earlier cycle. With other values there, an
instruction that raises no error does the same to everything a program can see. -/
def Obligations.HostOnlyStateIsNeverRead : Prop :=
  ∀ (i : Instr) (s t : State) (st : Byte) (dirty beep : Bool) (out : CycleStatus),
    exec i s = .next t → t.status = .running →
    ∃ u, exec i { s with st := st, dirty := dirty, beep := beep, statusOut := out } = .next u ∧
      u.v = t.v ∧ u.i = t.i ∧ u.pc = t.pc ∧ u.stack = t.stack ∧ u.sp = t.sp ∧ u.dt = t.dt ∧ u.mem = t.mem ∧
      u.fb = t.fb ∧ u.status = t.status

/-! ## Invariants -/

/-- The canonical form of memory (the model's, entry 15) is kept by every step from every state that has it. -/
def Obligations.StepKeepsMemoryCanonical : Prop :=
  ∀ s u : State, MemoryInv s → step s = .next u → MemoryInv u

/-- R17: a pc at most 0x10FE and return addresses at most 0x1000 are kept by every step; and from such a state no
instruction that is fetched wraps pc0 + 4 at 2^16. -/
def Obligations.StepKeepsThePcInBounds : Prop :=
  ∀ s u : State, PcInv s → step s = .next u →
    PcInv u ∧ (u.status = .running → s.pc.toNat + 4 < 65536)

/-- Both invariants hold after reset. -/
def Obligations.ResetMeetsTheInvariants : Prop :=
  MemoryInv State.reset ∧ PcInv State.reset

/-! ## Reset, loader and ports -/

/-- R27, R114, R36 (the values of V, FB, dirty and the stack are the spec's decision D15, the font's bytes D16): reset
gives every element its value whatever the state before, also out of Faulted. The 80 bytes are those of R36's table. -/
def Obligations.ResetReinitializesEverything : Prop :=
  ∀ s : State,
    (hostReset s).pc = 0x200 ∧ (∀ r, (hostReset s).getV r = 0) ∧ (hostReset s).i = 0 ∧ (hostReset s).sp = 0 ∧
    (∀ k, (hostReset s).stack.get k = 0) ∧ (hostReset s).dt = 0 ∧ (hostReset s).st = 0 ∧
    (∀ px py, pixel (hostReset s).fb px py = false) ∧ (hostReset s).dirty = false ∧
    (hostReset s).status = .running ∧ (hostReset s).beep = false ∧
    (∀ a, 0x050 ≤ a → a ≤ 0xFFF → (hostReset s).mem.read a = 0) ∧
    (List.range 80).map (fun a => (hostReset s).mem.read a) =
      [0xF0, 0x90, 0x90, 0x90, 0xF0] ++ [0x20, 0x60, 0x20, 0x20, 0x70] ++
      [0xF0, 0x10, 0xF0, 0x80, 0xF0] ++ [0xF0, 0x10, 0xF0, 0x10, 0xF0] ++
      [0x90, 0x90, 0xF0, 0x10, 0x10] ++ [0xF0, 0x80, 0xF0, 0x10, 0xF0] ++
      [0xF0, 0x80, 0xF0, 0x90, 0xF0] ++ [0xF0, 0x10, 0x20, 0x40, 0x40] ++
      [0xF0, 0x90, 0xF0, 0x90, 0xF0] ++ [0xF0, 0x90, 0xF0, 0x10, 0xF0] ++
      [0xF0, 0x90, 0xF0, 0x90, 0x90] ++ [0xE0, 0x90, 0xE0, 0x90, 0xE0] ++
      [0xF0, 0x80, 0x80, 0x80, 0xF0] ++ [0xE0, 0x90, 0x90, 0x90, 0xE0] ++
      [0xF0, 0x80, 0xF0, 0x80, 0xF0] ++ [0xF0, 0x80, 0xF0, 0x80, 0x80]

/-- R42, R60, R115, before the first cycle, also after an earlier load: an image that fits is copied from 0x200 and starts
the session; one too large writes nothing and execution never starts (the run status stays Running: entry 19; a later load
is refused: entry 6); an empty one does not start (D27; entry 6). That a step is then refused is entry 5. That after an
earlier load every byte the image does not cover is kept, the first image's among them, is the model's choice (entry 6). -/
def Obligations.LoaderCopiesTheImageOrNeverStarts : Prop :=
  ∀ (img : List Byte) (s : State), s.statusOut = .noCycle → (∀ n, s.load ≠ .tooLarge n) →
    (MemoryInv s → 0 < img.length → img.length ≤ 3584 →
      ∃ t, hostLoad img s = .next t ∧ t.load = .loaded ∧ MemoryInv t ∧
        (∀ k, k < img.length → t.mem.read (0x200 + k) = img.getD k 0) ∧
        (∀ a, (a < 0x200 ∨ 0x200 + img.length ≤ a) → t.mem.read a = s.mem.read a) ∧
        t = { s with mem := t.mem, load := .loaded }) ∧
    (img.length > 3584 →
      ∃ t, hostLoad img s = .next t ∧ t = { s with load := .tooLarge img.length } ∧
        step t = .refused .notLoaded ∧ ∀ other, hostLoad other t = .refused .noHostMove) ∧
    (img.length = 0 →
      ∃ t, hostLoad img s = .next t ∧ t = { s with load := .awaitingImage } ∧ step t = .refused .notLoaded)

/-- R41, R60: once a cycle has run, the host has no load (that it is then refused is entry 6); a reset gives it one again,
whatever the state before. -/
def Obligations.HostLoadsOnlyBeforeTheFirstCycle : Prop :=
  ∀ (img : List Byte) (s : State),
    (∀ u, step s = .next u → hostLoad img u = .refused .noHostMove) ∧
    ∃ t, hostLoad img (hostReset s) = .next t

/-- R59: the framebuffer port is row-major, bit y*64+x for the pixel at column x and row y. -/
def Obligations.FramebufferPortIsRowMajor : Prop :=
  ∀ (s : State) (x : Fin 64) (y : Fin 32), (fbPort s).getLsbD (y.val * 64 + x.val) = pixel s.fb x y
end

