-- ==== Sys2Proof/Laws/Words.lean ====
section
/-! SUPPORT. The fields of a word built from fields, and the bytes of a word. -/

namespace Sys2Proof

theorem wordNNN_toNat {g : Nat} (hg : g < 16) (nnn : BitVec 12) : (wordNNN g nnn).toNat = g * 4096 + nnn.toNat := by
  have := nnn.isLt
  simp only [wordNNN, BitVec.toNat_ofNat]
  omega

theorem wordXNN_toNat {g : Nat} (hg : g < 16) (x : Reg) (nn : Byte) :
    (wordXNN g x nn).toNat = g * 4096 + x.val * 256 + nn.toNat := by
  have := nn.isLt
  have := x.isLt
  simp only [wordXNN, BitVec.toNat_ofNat]
  omega

theorem wordXYN_toNat {g : Nat} (hg : g < 16) (x y : Reg) (n : BitVec 4) :
    (wordXYN g x y n).toNat = g * 4096 + x.val * 256 + y.val * 16 + n.toNat := by
  have := n.isLt
  have := x.isLt
  have := y.isLt
  simp only [wordXYN, BitVec.toNat_ofNat]
  omega

theorem fieldN_toNat (op : Word) : (fieldN op).toNat = op.toNat % 16 := by simp [fieldN]

theorem fieldNN_toNat (op : Word) : (fieldNN op).toNat = op.toNat % 256 := by simp [fieldNN]

theorem fieldNNN_toNat (op : Word) : (fieldNNN op).toNat = op.toNat % 4096 := by simp [fieldNNN]

theorem wordOfBytes_toNat (a b : Byte) : (wordOfBytes a b).toNat = a.toNat * 256 + b.toNat := by
  have := a.isLt
  have := b.isLt
  simp only [wordOfBytes, BitVec.toNat_ofNat]
  omega

/-- The two bytes of a word give the word back. -/
theorem wordOfBytes_bytes (op : Word) : wordOfBytes (firstByte op) (secondByte op) = op := by
  have := op.isLt
  apply BitVec.eq_of_toNat_eq
  rw [wordOfBytes_toNat]
  simp only [firstByte, secondByte, BitVec.toNat_ofNat]
  omega

/-- The decoder read on a row's bits is the decoder on the word. -/
theorem decodeTableWord_eq_some {w : Nat} (hw : w < 65536) (i : Instr) :
    decodeTableWord 16 w = some i ↔ decode (BitVec.ofNat 16 w) = .instr i := by
  have h : w % 2 ^ 16 = w := by omega
  simp only [decodeTableWord, decodeBytes, wordOfBytes_bytes, h]
  cases decode (BitVec.ofNat 16 w) <;> simp

/-- The mask of the high nibble keeps the group. -/
theorem and_group (op : Word) : op &&& 0xF000#16 = BitVec.ofNat 16 (op.toNat / 4096 * 4096) := by
  have h : op &&& 0xF000#16 = (op >>> (12 : Nat)) <<< (12 : Nat) := by
    ext i hi
    interval_cases i <;> simp
  rw [h]
  apply BitVec.eq_of_toNat_eq
  simp [Nat.shiftLeft_eq, Nat.shiftRight_eq_div_pow]

/-- A word under a mask of its group and its low `k` bits. -/
theorem and_group_low {op mask low : Word} {k : Nat} (hk : k ≤ 12) (hm : op &&& mask = (op &&& 0xF000#16) ||| (op &&& low))
    (hl : low.toNat = 2 ^ k - 1) :
    op &&& mask = BitVec.ofNat 16 (op.toNat / 4096 * 4096 + op.toNat % 2 ^ k) := by
  have hlt := op.isLt
  have hmod : op.toNat % 2 ^ k < 2 ^ k := Nat.mod_lt _ (by positivity)
  have hpow : (2 : Nat) ^ k ≤ 2 ^ 12 := Nat.pow_le_pow_right (by decide) hk
  have hsplit : op.toNat / 4096 * 4096 = 2 ^ k * (op.toNat / 4096 * 2 ^ (12 - k)) := by
    rw [Nat.mul_left_comm, ← Nat.pow_add, Nat.add_sub_cancel' hk]
  rw [hm, and_group]
  apply BitVec.eq_of_toNat_eq
  rw [BitVec.toNat_or, BitVec.toNat_and, hl, Nat.and_two_pow_sub_one_eq_mod, BitVec.toNat_ofNat, BitVec.toNat_ofNat,
    Nat.mod_eq_of_lt (show op.toNat / 4096 * 4096 < 2 ^ 16 by omega),
    Nat.mod_eq_of_lt (show op.toNat / 4096 * 4096 + op.toNat % 2 ^ k < 2 ^ 16 by omega), hsplit,
    Nat.two_pow_add_eq_or_of_lt hmod]

/-- The mask of a row of group 0, E or F. -/
theorem and_group_byte (op : Word) :
    op &&& 0xF0FF#16 = BitVec.ofNat 16 (op.toNat / 4096 * 4096 + op.toNat % 256) :=
  and_group_low (low := 0x00FF#16) (k := 8) (by decide) (by ext i hi; interval_cases i <;> simp) rfl

/-- The mask of a row of group 8. -/
theorem and_group_nibble (op : Word) :
    op &&& 0xF00F#16 = BitVec.ofNat 16 (op.toNat / 4096 * 4096 + op.toNat % 16) :=
  and_group_low (low := 0x000F#16) (k := 4) (by decide) (by ext i hi; interval_cases i <;> simp) rfl

end Sys2Proof
end

