-- ==== Sys2Proof/Laws/Decode.lean ====
section
/-! SUPPORT. The decoder one primary group at a time, so that no proof splits the whole of it; and the fields of the
words the encoder builds. -/

namespace Sys2Proof

theorem fieldG_lt (op : Word) : fieldG op < 16 := by
  have := op.isLt
  unfold fieldG
  omega

theorem fieldX_val (op : Word) : (fieldX op).val = op.toNat / 256 % 16 := rfl

theorem fieldY_val (op : Word) : (fieldY op).val = op.toNat / 16 % 16 := rfl

variable {p : Params} {op : Word}

theorem decodeWith_group0 (h : fieldG op = 0x0) :
    decodeWith p op = decodeGroup0 p op := by
  simp [decodeWith, h]

theorem decodeWith_group1 (h : fieldG op = 0x1) :
    decodeWith p op = .instr (.jp (fieldNNN op)) := by
  simp [decodeWith, h]

theorem decodeWith_group2 (h : fieldG op = 0x2) :
    decodeWith p op = .instr (.call (fieldNNN op)) := by
  simp [decodeWith, h]

theorem decodeWith_group3 (h : fieldG op = 0x3) :
    decodeWith p op = .instr (.seImm (fieldX op) (fieldNN op)) := by
  simp [decodeWith, h]

theorem decodeWith_group4 (h : fieldG op = 0x4) :
    decodeWith p op = .instr (.sneImm (fieldX op) (fieldNN op)) := by
  simp [decodeWith, h]

theorem decodeWith_group5 (h : fieldG op = 0x5) :
    decodeWith p op = decodeIgnoringN p op (.seReg (fieldX op) (fieldY op) (fieldN op)) := by
  simp [decodeWith, h]

theorem decodeWith_group6 (h : fieldG op = 0x6) :
    decodeWith p op = .instr (.ldImm (fieldX op) (fieldNN op)) := by
  simp [decodeWith, h]

theorem decodeWith_group7 (h : fieldG op = 0x7) :
    decodeWith p op = .instr (.addImm (fieldX op) (fieldNN op)) := by
  simp [decodeWith, h]

theorem decodeWith_group8 (h : fieldG op = 0x8) :
    decodeWith p op = decodeGroup8 op := by
  simp [decodeWith, h]

theorem decodeWith_group9 (h : fieldG op = 0x9) :
    decodeWith p op = decodeIgnoringN p op (.sneReg (fieldX op) (fieldY op) (fieldN op)) := by
  simp [decodeWith, h]

theorem decodeWith_groupA (h : fieldG op = 0xA) :
    decodeWith p op = .instr (.ldI (fieldNNN op)) := by
  simp [decodeWith, h]

theorem decodeWith_groupB (h : fieldG op = 0xB) :
    decodeWith p op = .instr (.jpV0 (fieldNNN op)) := by
  simp [decodeWith, h]

theorem decodeWith_groupC (h : fieldG op = 0xC) :
    decodeWith p op = .instr (.rnd (fieldX op) (fieldNN op)) := by
  simp [decodeWith, h]

theorem decodeWith_groupD (h : fieldG op = 0xD) :
    decodeWith p op = .instr (.drw (fieldX op) (fieldY op) (fieldN op)) := by
  simp [decodeWith, h]

theorem decodeWith_groupE (h : fieldG op = 0xE) :
    decodeWith p op = decodeGroupE op := by
  simp [decodeWith, h]

theorem decodeWith_groupF (h : fieldG op = 0xF) :
    decodeWith p op = decodeGroupF op := by
  simp [decodeWith, h]

theorem fields_wordNNN {g : Nat} (hg : g < 16) (nnn : BitVec 12) :
    fieldG (wordNNN g nnn) = g ∧ fieldNNN (wordNNN g nnn) = nnn := by
  have := nnn.isLt
  refine ⟨by rw [fieldG, wordNNN_toNat hg]; omega, BitVec.eq_of_toNat_eq ?_⟩
  rw [fieldNNN_toNat, wordNNN_toNat hg]
  omega

theorem fields_wordXNN {g : Nat} (hg : g < 16) (x : Reg) (nn : Byte) :
    fieldG (wordXNN g x nn) = g ∧ fieldX (wordXNN g x nn) = x ∧ fieldNN (wordXNN g x nn) = nn := by
  have := nn.isLt
  have := x.isLt
  refine ⟨by rw [fieldG, wordXNN_toNat hg]; omega, Fin.ext ?_, BitVec.eq_of_toNat_eq ?_⟩
  · rw [fieldX_val, wordXNN_toNat hg]
    omega
  · rw [fieldNN_toNat, wordXNN_toNat hg]
    omega

theorem fields_wordXYN {g : Nat} (hg : g < 16) (x y : Reg) (n : BitVec 4) :
    fieldG (wordXYN g x y n) = g ∧ fieldX (wordXYN g x y n) = x ∧ fieldY (wordXYN g x y n) = y ∧
      fieldN (wordXYN g x y n) = n := by
  have := n.isLt
  have := x.isLt
  have := y.isLt
  refine ⟨by rw [fieldG, wordXYN_toNat hg]; omega, Fin.ext ?_, Fin.ext ?_, BitVec.eq_of_toNat_eq ?_⟩
  · rw [fieldX_val, wordXYN_toNat hg]
    omega
  · rw [fieldY_val, wordXYN_toNat hg]
    omega
  · rw [fieldN_toNat, wordXYN_toNat hg]
    omega

end Sys2Proof
end

