-- ==== Sys2Proof/Laws/Display.lean ====
section
/-! SUPPORT. What the sprite compositor does to each pixel and to the collision (47_display.md R97, R98). -/

namespace Sys2Proof.Machine

theorem pixel_setPixel (fb : Framebuffer) (x px : Fin 64) (y py : Fin 32) (c : Bool) :
    pixel (setPixel fb x y c) px py = if px = x ∧ py = y then c else pixel fb px py := by
  unfold pixel setPixel
  simp only [Vector.get_eq_getElem, Vector.getElem_set]
  by_cases hy : y = py
  · subst hy
    simp only [if_true, Vector.getElem_set, and_true, Fin.ext_iff]
    exact if_congr eq_comm rfl rfl
  · rw [if_neg (fun h => hy (Fin.ext h)), if_neg (fun h => hy h.2.symm)]

theorem pixel_blank (px : Fin 64) (py : Fin 32) : pixel blankFramebuffer px py = false := by
  simp [pixel, blankFramebuffer, Vector.get_eq_getElem]

/-- The column of a sprite drawn at x0 that lies on pixel column px. -/
def spriteColumn (x0 px : Nat) : Nat := (px + 64 - x0 % 64) % 64

/-- The row of a sprite drawn at y0 that lies on pixel row py. -/
def spriteRow (y0 py : Nat) : Nat := (py + 32 - y0 % 32) % 32

/-- Whether column c < n of a sprite row drawn at (x0, y) sets pixel (px, py). -/
def rowBit (n x0 y : Nat) (row : Byte) (px : Fin 64) (py : Fin 32) : Bool :=
  decide (py.val = y % 32) && decide (spriteColumn x0 px < n) && row.getLsbD (7 - spriteColumn x0 px)

/-- Whether a sprite drawn at (x0, y) sets pixel (px, py). -/
def rowsBit (x0 y : Nat) (rows : List Byte) (px : Fin 64) (py : Fin 32) : Bool :=
  decide (spriteColumn x0 px < 8) && decide (spriteRow y py < rows.length) &&
    (rows.getD (spriteRow y py) 0).getLsbD (7 - spriteColumn x0 px)

/-- What drawing under a mask means: every pixel of the mask inverted, and a collision where one was 1. -/
def DrawsMask (mask : Fin 64 → Fin 32 → Bool) (acc out : Framebuffer × Bool) : Prop :=
  (∀ px py, pixel out.1 px py = (pixel acc.1 px py ^^ mask px py)) ∧
  (out.2 = true ↔ acc.2 = true ∨ ∃ px py, mask px py = true ∧ pixel acc.1 px py = true)

theorem DrawsMask.trans {m1 m2 m : Fin 64 → Fin 32 → Bool} {a b c : Framebuffer × Bool}
    (h1 : DrawsMask m1 a b) (h2 : DrawsMask m2 b c) (hm : ∀ px py, m px py = (m1 px py || m2 px py))
    (hd : ∀ px py, m1 px py = true → m2 px py = false) : DrawsMask m a c := by
  refine ⟨fun px py => ?_, ?_⟩
  · rw [h2.1, h1.1, hm]
    have := hd px py
    cases hx : m1 px py <;> cases hy : m2 px py <;> simp_all
  · rw [h2.2, h1.2, or_assoc]
    refine or_congr_right ⟨?_, ?_⟩
    · rintro (⟨px, py, hb, hp⟩ | ⟨px, py, hb, hp⟩)
      · exact ⟨px, py, by simp [hm, hb], hp⟩
      · refine ⟨px, py, by simp [hm, hb], ?_⟩
        have hx : m1 px py = false := by
          cases hx : m1 px py
          · rfl
          · rw [hd px py hx] at hb; cases hb
        simpa [h1.1, hx] using hp
    · rintro ⟨px, py, hb, hp⟩
      cases hx : m1 px py
      · refine .inr ⟨px, py, by simpa [hm, hx] using hb, ?_⟩
        simpa [h1.1, hx] using hp
      · exact .inl ⟨px, py, hx, hp⟩

theorem plot_draws (x y : Nat) (acc : Framebuffer × Bool) :
    DrawsMask (fun px py => decide (px.val = x % 64) && decide (py.val = y % 32)) acc (plot x y acc) := by
  refine ⟨fun px py => ?_, ?_⟩
  · simp only [plot, pixel_setPixel, Fin.ext_iff]
    by_cases h : px.val = x % 64 ∧ py.val = y % 32
    · rw [if_pos h]
      have hx : (⟨x % 64, Nat.mod_lt _ (by decide)⟩ : Fin 64) = px := Fin.ext h.1.symm
      have hy : (⟨y % 32, Nat.mod_lt _ (by decide)⟩ : Fin 32) = py := Fin.ext h.2.symm
      rw [hx, hy]
      simp [h.1, h.2]
    · rw [if_neg h]
      have : (decide (px.val = x % 64) && decide (py.val = y % 32)) = false := by
        simpa using h
      rw [this, Bool.xor_false]
  · simp only [plot, Bool.or_eq_true, Bool.and_eq_true, decide_eq_true_eq]
    refine or_congr_right ⟨fun h => ⟨_, _, ⟨rfl, rfl⟩, h⟩, ?_⟩
    rintro ⟨px, py, ⟨hx, hy⟩, hp⟩
    have hx' : px = ⟨x % 64, Nat.mod_lt _ (by decide)⟩ := Fin.ext hx
    have hy' : py = ⟨y % 32, Nat.mod_lt _ (by decide)⟩ := Fin.ext hy
    rwa [hx', hy'] at hp

theorem DrawsMask.refl (acc : Framebuffer × Bool) {m : Fin 64 → Fin 32 → Bool} (h : ∀ px py, m px py = false) :
    DrawsMask m acc acc := by
  refine ⟨fun px py => by rw [h, Bool.xor_false], ⟨.inl, ?_⟩⟩
  rintro (h' | ⟨px, py, hb, -⟩)
  · exact h'
  · rw [h] at hb; cases hb

theorem drawColumns_draws (x0 y : Nat) (row : Byte) (acc : Framebuffer × Bool) : ∀ n, n ≤ 8 →
    DrawsMask (rowBit n x0 y row) acc ((List.range n).foldl
      (fun acc c => if row.getLsbD (7 - c) then plot (x0 + c) y acc else acc) acc) := by
  intro n
  induction n with
  | zero => intro _; exact DrawsMask.refl acc fun px py => by simp [rowBit]
  | succ n ih =>
    intro hn
    rw [List.range_succ, List.foldl_append, List.foldl_cons, List.foldl_nil]
    have col : ∀ px : Fin 64, px.val = (x0 + n) % 64 ↔ spriteColumn x0 px = n := by
      intro px
      have := px.isLt
      unfold spriteColumn
      omega
    by_cases hb : row.getLsbD (7 - n) = true
    · rw [if_pos hb]
      refine (ih (by omega)).trans (plot_draws (x0 + n) y _) (fun px py => ?_) (fun px py => ?_)
      · simp only [rowBit, col]
        by_cases h : spriteColumn x0 px = n
        · simp [h, hb, Bool.and_comm]
        · have h1 : decide (spriteColumn x0 px < n + 1) = decide (spriteColumn x0 px < n) :=
            decide_eq_decide.2 ⟨fun h' => by omega, fun h' => by omega⟩
          rw [h1]
          simp [h]
      · simp only [rowBit, col, Bool.and_eq_true, decide_eq_true_eq]
        rintro ⟨⟨-, h⟩, -⟩
        simp [Nat.ne_of_lt h]
    · rw [if_neg hb]
      have heq : rowBit (n + 1) x0 y row = rowBit n x0 y row := by
        funext px py
        simp only [rowBit]
        by_cases h : spriteColumn x0 px = n
        · simp [h, hb]
        · have h1 : decide (spriteColumn x0 px < n + 1) = decide (spriteColumn x0 px < n) :=
            decide_eq_decide.2 ⟨fun h' => by omega, fun h' => by omega⟩
          rw [h1]
      rw [heq]
      exact ih (by omega)

/-- One sprite row inverts exactly the pixels under its set bits. -/
theorem drawRow_draws (x0 y : Nat) (row : Byte) (acc : Framebuffer × Bool) :
    DrawsMask (rowBit 8 x0 y row) acc (drawRow x0 y row acc) :=
  drawColumns_draws x0 y row acc 8 (le_refl _)

/-- A sprite of at most 32 rows inverts exactly the pixels under its set bits, none twice. -/
theorem drawRows_draws (x0 : Nat) (rows : List Byte) : ∀ (y : Nat) (acc : Framebuffer × Bool), rows.length ≤ 32 →
    DrawsMask (rowsBit x0 y rows) acc (drawRows x0 y rows acc) := by
  induction rows with
  | nil => intro y acc _; exact DrawsMask.refl acc fun px py => by simp [rowsBit]
  | cons row rest ih =>
    intro y acc hlen
    simp only [List.length_cons] at hlen
    have key : ∀ py : Fin 32, (py.val = y % 32 ↔ spriteRow y py = 0) ∧
        (spriteRow y py ≠ 0 → spriteRow (y + 1) py + 1 = spriteRow y py) ∧
        (spriteRow y py = 0 → spriteRow (y + 1) py = 31) := by
      intro py
      have := py.isLt
      unfold spriteRow
      omega
    refine (drawRow_draws x0 y row acc).trans (ih (y + 1) _ (by omega)) (fun px py => ?_) (fun px py => ?_)
    · obtain ⟨h0, h1, h2⟩ := key py
      simp only [rowBit, rowsBit, List.length_cons, h0]
      by_cases h : spriteRow y py = 0
      · have hr : decide (spriteRow (y + 1) py < rest.length) = false := by
          rw [h2 h]; simp; omega
        simp [h, hr]
      · have hs := h1 h
        rw [← hs]
        simp
    · obtain ⟨h0, h1, h2⟩ := key py
      simp only [rowBit, rowsBit, Bool.and_eq_true, decide_eq_true_eq, h0]
      rintro ⟨⟨h, -⟩, -⟩
      have hr : decide (spriteRow (y + 1) py < rest.length) = false := by
        rw [h2 h]; simp; omega
      simp [hr]

end Sys2Proof.Machine
end

