-- ==== Sys2Proof/Laws/Memory.lean ====
section
/-! SUPPORT. The laws of memory: a read after a write, and that every operation keeps the canonical form. -/

namespace Sys2Proof.Machine

variable {p : Params}

/-! ### Under any parameters -/

theorem Memory.wfFrom_cons {lo k : Nat} {b : Byte} {rest : Memory} :
    Memory.wfFrom p lo ((k, b) :: rest) = true ↔
      lo ≤ k ∧ k < 4096 ∧ b ≠ Memory.background p k ∧ Memory.wfFrom p (k + 1) rest = true := by
  simp [Memory.wfFrom, and_assoc]

theorem Memory.wfFrom_mono {lo lo' : Nat} {m : Memory} (h : Memory.wfFrom p lo m = true) (hle : lo' ≤ lo) :
    Memory.wfFrom p lo' m = true := by
  cases m with
  | nil => rfl
  | cons c rest =>
    obtain ⟨k, b⟩ := c
    rw [Memory.wfFrom_cons] at h ⊢
    exact ⟨hle.trans h.1, h.2⟩

/-- Below the first listed address, memory reads as its reset contents. -/
theorem Memory.readWith_below {lo a : Nat} {m : Memory} (h : Memory.wfFrom p lo m = true) (ha : a < lo) :
    m.readWith p a = Memory.background p a := by
  induction m generalizing lo with
  | nil => rfl
  | cons c rest ih =>
    obtain ⟨k, b⟩ := c
    rw [Memory.wfFrom_cons] at h
    rw [Memory.readWith, if_neg (by omega)]
    exact ih h.2.2.2 (by omega)

theorem Memory.wfFrom_cell {lo a : Nat} {b : Byte} {rest : Memory} (hlo : lo ≤ a) (ha : a < 4096)
    (h : Memory.wfFrom p (a + 1) rest = true) : Memory.wfFrom p lo (Memory.cell p a b ++ rest) = true := by
  unfold Memory.cell
  split
  · exact Memory.wfFrom_mono h (by omega)
  · rename_i hb
    exact Memory.wfFrom_cons.2 ⟨hlo, ha, hb, h⟩

theorem Memory.readWith_cell {a : Nat} {b : Byte} {rest : Memory} (h : Memory.wfFrom p (a + 1) rest = true) (c : Nat) :
    Memory.readWith p (Memory.cell p a b ++ rest) c = if c = a then b else Memory.readWith p rest c := by
  unfold Memory.cell
  by_cases hb : b = Memory.background p a
  · rw [if_pos hb, List.nil_append]
    by_cases hc : c = a
    · rw [if_pos hc, hc, Memory.readWith_below h (by omega), hb]
    · rw [if_neg hc]
  · rw [if_neg hb, List.singleton_append, Memory.readWith]
    by_cases hc : c = a
    · rw [if_pos hc.symm, if_pos hc]
    · rw [if_neg (fun e => hc e.symm), if_neg hc]

theorem Memory.wfFrom_write {lo a : Nat} {b : Byte} {m : Memory} (h : Memory.wfFrom p lo m = true) (hlo : lo ≤ a)
    (ha : a < 4096) : Memory.wfFrom p lo (m.writeWith p a b) = true := by
  induction m generalizing lo with
  | nil => simpa [Memory.writeWith] using Memory.wfFrom_cell (b := b) (rest := []) hlo ha rfl
  | cons c rest ih =>
    obtain ⟨k, d⟩ := c
    rw [Memory.wfFrom_cons] at h
    unfold Memory.writeWith
    split
    · exact Memory.wfFrom_cell hlo ha (Memory.wfFrom_cons.2 ⟨by omega, h.2⟩)
    · split
      · rename_i hk
        exact Memory.wfFrom_cell hlo ha (hk ▸ h.2.2.2)
      · exact Memory.wfFrom_cons.2 ⟨h.1, h.2.1, h.2.2.1, ih h.2.2.2 (by omega)⟩

/-- A write keeps the canonical form. -/
theorem Memory.wfWith_writeWith {m : Memory} {a : Nat} {b : Byte} (h : m.wfWith p = true) (ha : a < 4096) :
    (m.writeWith p a b).wfWith p = true :=
  Memory.wfFrom_write h (Nat.zero_le _) ha

theorem Memory.readWith_writeFrom {lo a c : Nat} {b : Byte} {m : Memory} (h : Memory.wfFrom p lo m = true) :
    (m.writeWith p a b).readWith p c = if c = a then b else m.readWith p c := by
  induction m generalizing lo with
  | nil => simpa [Memory.writeWith] using Memory.readWith_cell (a := a) (b := b) (rest := []) rfl c
  | cons e rest ih =>
    obtain ⟨k, d⟩ := e
    rw [Memory.wfFrom_cons] at h
    unfold Memory.writeWith
    split
    · exact Memory.readWith_cell (Memory.wfFrom_cons.2 ⟨by omega, h.2⟩) c
    · split
      · rename_i hk
        rw [Memory.readWith_cell (hk ▸ h.2.2.2), Memory.readWith]
        split
        · rfl
        · rw [if_neg (by omega)]
      · rw [Memory.readWith, ih h.2.2.2, Memory.readWith]
        by_cases hc : k = c
        · rw [if_pos hc, if_pos hc, if_neg (by omega)]
        · rw [if_neg hc, if_neg hc]

/-- A read after a write: the byte written at its address, every other address as before. -/
theorem Memory.readWith_writeWith {m : Memory} (h : m.wfWith p = true) (a : Nat) (b : Byte) (c : Nat) :
    (m.writeWith p a b).readWith p c = if c = a then b else m.readWith p c :=
  Memory.readWith_writeFrom h

theorem Memory.wfFrom_filterMap (f : Nat → Byte) (n : Nat) : ∀ lo, lo + n ≤ 4096 →
    Memory.wfFrom p lo ((List.range' lo n).filterMap fun a =>
      if f a = Memory.background p a then none else some (a, f a)) = true := by
  induction n with
  | zero => intro lo _; rfl
  | succ n ih =>
    intro lo hlo
    rw [List.range'_succ, List.filterMap_cons]
    by_cases hb : f lo = Memory.background p lo
    · simp only [hb, if_true]
      exact Memory.wfFrom_mono (ih (lo + 1) (by omega)) (by omega)
    · simp only [hb, if_false]
      exact Memory.wfFrom_cons.2 ⟨le_refl _, by omega, hb, ih (lo + 1) (by omega)⟩

/-- The memory of a byte function is canonical. -/
theorem Memory.wfWith_ofFun (f : Nat → Byte) : (Memory.ofFun p f).wfWith p = true := by
  simpa [Memory.ofFun, Memory.wfWith, List.range_eq_range'] using Memory.wfFrom_filterMap f 4096 0 (by omega)

theorem Memory.wfWith_place {m : Memory} {a : Nat} {b : Byte} (h : m.wfWith p = true) : (m.place p a b).wfWith p = true := by
  unfold Memory.place
  split
  · exact Memory.wfWith_writeWith h ‹_›
  · exact h

theorem Memory.wfWith_copyImage {bs : List Byte} : ∀ {m : Memory} {a : Nat}, m.wfWith p = true → a + bs.length ≤ 4096 →
    (copyImage p m a bs).wfWith p = true := by
  induction bs with
  | nil => intro m a h _; exact h
  | cons b bs ih =>
    intro m a h ha
    simp only [List.length_cons] at ha
    exact ih (Memory.wfWith_writeWith h (by omega)) (by omega)

/-- What the loader leaves: the image from `a` up, every other address as before. -/
theorem Memory.readWith_copyImage {bs : List Byte} : ∀ {m : Memory} {a : Nat}, m.wfWith p = true → a + bs.length ≤ 4096 →
    ∀ c, (copyImage p m a bs).readWith p c = if a ≤ c ∧ c < a + bs.length then bs.getD (c - a) 0 else m.readWith p c := by
  induction bs with
  | nil => intro m a _ _ c; simp only [List.length_nil]; rw [if_neg (by omega)]; rfl
  | cons b bs ih =>
    intro m a h ha c
    simp only [List.length_cons] at ha ⊢
    rw [copyImage, ih (Memory.wfWith_writeWith h (by omega)) (by omega) c, Memory.readWith_writeWith h]
    by_cases hc : c = a
    · subst hc
      rw [if_neg (by omega), if_pos rfl, if_pos (by omega)]
      simp
    · by_cases hr : a + 1 ≤ c ∧ c < a + 1 + bs.length
      · rw [if_pos hr, if_pos (by omega)]
        obtain ⟨j, hj⟩ : ∃ j, c - a = j + 1 := ⟨c - a - 1, by omega⟩
        rw [hj, show c - (a + 1) = j by omega]
        simp
      · rw [if_neg hr, if_neg hc, if_neg (by omega)]

/-- Reset's memory is canonical, whatever the font. -/
theorem Memory.wfWith_reset : State.reset.mem.wfWith p = true := rfl

/-! ### Accesses of several bytes (20_memory.md R29, R33) -/

theorem readBytes_ok_with {m : Memory} : ∀ {n a : Nat}, a + n ≤ 4096 ∨ n = 0 →
    readBytes p m a n = .ok ((List.range n).map fun k => m.readWith p (a + k)) := by
  intro n
  induction n with
  | zero => intro a _; rfl
  | succ n ih =>
    intro a h
    have h1 : ¬ a ≥ 4096 := by omega
    rw [readBytes, memRead, if_neg h1]
    simp only
    rw [ih (by omega)]
    simp only [List.range_succ_eq_map, List.map_cons, List.map_map, Nat.add_zero, Function.comp_def,
      Nat.succ_eq_add_one, Nat.add_assoc, Nat.add_comm 1]

/-- The first address out of range is the one reported (60_exceptions.md R103). -/
theorem readBytes_error_with {m : Memory} : ∀ {n a : Nat}, n ≠ 0 → a + n > 4096 →
    readBytes p m a n = .error (max a 4096) := by
  intro n
  induction n with
  | zero => intro a h; exact absurd rfl h
  | succ n ih =>
    intro a _ h
    rw [readBytes, memRead]
    by_cases ha : a ≥ 4096
    · rw [if_pos ha, Nat.max_eq_left ha]
    · rw [if_neg ha]
      simp only
      rw [ih (by omega) (by omega)]
      simp only [Except.error.injEq]
      omega

theorem writeBytes_ok_with {bs : List Byte} : ∀ {m : Memory} {a : Nat}, a + bs.length ≤ 4096 ∨ bs = [] →
    writeBytes p m a bs = .ok (copyImage p m a bs) := by
  induction bs with
  | nil => intro m a _; rfl
  | cons b bs ih =>
    intro m a h
    have h' : a + (bs.length + 1) ≤ 4096 := by simpa using h
    rw [writeBytes, memWrite, if_neg (by omega)]
    simp only
    rw [ih (Or.inl (by omega)), copyImage]

theorem writeBytes_error_with {bs : List Byte} : ∀ {m : Memory} {a : Nat}, bs ≠ [] → a + bs.length > 4096 →
    writeBytes p m a bs = .error (max a 4096) := by
  induction bs with
  | nil => intro m a h; exact absurd rfl h
  | cons b bs ih =>
    intro m a _ h
    simp only [List.length_cons] at h
    rw [writeBytes, memWrite]
    by_cases ha : a ≥ 4096
    · rw [if_pos ha, Nat.max_eq_left ha]
    · rw [if_neg ha]
      simp only
      rw [ih (by intro e; subst e; simp at h; omega) (by omega)]
      simp only [Except.error.injEq]
      omega

/-- Everything several writes can do: they land, in canonical form, or the first address out of range is reported. -/
theorem writeBytes_cases_with {m : Memory} (h : m.wfWith p = true) (a : Nat) {bs : List Byte} (hne : bs ≠ []) :
    (a + bs.length ≤ 4096 ∧ ∃ m', writeBytes p m a bs = .ok m' ∧ m'.wfWith p = true ∧
      ∀ c, m'.readWith p c = if a ≤ c ∧ c < a + bs.length then bs.getD (c - a) 0 else m.readWith p c) ∨
    (a + bs.length > 4096 ∧ writeBytes p m a bs = .error (max a 4096)) := by
  by_cases hr : a + bs.length ≤ 4096
  · exact .inl ⟨hr, _, writeBytes_ok_with (.inl hr), Memory.wfWith_copyImage h hr, Memory.readWith_copyImage h hr⟩
  · exact .inr ⟨by omega, writeBytes_error_with hne (by omega)⟩

/-! ### On this hardware -/

/-- A write keeps the canonical form. -/
theorem Memory.wf_write {m : Memory} {a : Nat} {b : Byte} (h : m.wf = true) (ha : a < 4096) :
    (m.writeWith Config.params a b).wf = true :=
  Memory.wfWith_writeWith h ha

/-- A read after a write: the byte written at its address, every other address as before. -/
theorem Memory.read_write {m : Memory} (h : m.wf = true) (a : Nat) (b : Byte) (c : Nat) :
    (m.writeWith Config.params a b).read c = if c = a then b else m.read c :=
  Memory.readWith_writeWith h a b c

/-- A fatal error leaves memory canonical, whatever bytes it leaves. -/
theorem State.raise_mem_wf (s : State) (record : FaultRecord) : (s.raise record).mem.wf = true := by
  simp only [State.raise, Memory.wf, Memory.wfWith_ofFun]

theorem Memory.wf_reset : State.reset.mem.wf = true := rfl

theorem Memory.wf_copyImage {bs : List Byte} {m : Memory} {a : Nat} (h : m.wf = true) (ha : a + bs.length ≤ 4096) :
    (copyImage Config.params m a bs).wf = true :=
  Memory.wfWith_copyImage h ha

/-- What the loader leaves: the image from `a` up, every other address as before. -/
theorem Memory.read_copyImage {bs : List Byte} {m : Memory} {a : Nat} (h : m.wf = true) (ha : a + bs.length ≤ 4096)
    (c : Nat) : (copyImage Config.params m a bs).read c =
      if a ≤ c ∧ c < a + bs.length then bs.getD (c - a) 0 else m.read c :=
  Memory.readWith_copyImage h ha c

theorem readBytes_ok {m : Memory} {n a : Nat} (h : a + n ≤ 4096 ∨ n = 0) :
    readBytes Config.params m a n = .ok ((List.range n).map fun k => m.read (a + k)) :=
  readBytes_ok_with h

/-- The first address out of range is the one reported (60_exceptions.md R103). -/
theorem readBytes_error {m : Memory} {n a : Nat} (hn : n ≠ 0) (h : a + n > 4096) :
    readBytes Config.params m a n = .error (max a 4096) :=
  readBytes_error_with hn h

theorem writeBytes_ok {bs : List Byte} {m : Memory} {a : Nat} (h : a + bs.length ≤ 4096 ∨ bs = []) :
    writeBytes Config.params m a bs = .ok (copyImage Config.params m a bs) :=
  writeBytes_ok_with h

theorem writeBytes_error {bs : List Byte} {m : Memory} {a : Nat} (hne : bs ≠ []) (h : a + bs.length > 4096) :
    writeBytes Config.params m a bs = .error (max a 4096) :=
  writeBytes_error_with hne h

/-- Everything several writes can do: they land, in canonical form, or the first address out of range is reported. -/
theorem writeBytes_cases {m : Memory} (h : m.wf = true) (a : Nat) {bs : List Byte} (hne : bs ≠ []) :
    (a + bs.length ≤ 4096 ∧ ∃ m', writeBytes Config.params m a bs = .ok m' ∧ m'.wf = true ∧
      ∀ c, m'.read c = if a ≤ c ∧ c < a + bs.length then bs.getD (c - a) 0 else m.read c) ∨
    (a + bs.length > 4096 ∧ writeBytes Config.params m a bs = .error (max a 4096)) :=
  writeBytes_cases_with h a hne

/-- Everything the loader can do with an image. -/
theorem State.loadImage_cases (img : List Byte) (s : State) :
    (img.length > 3584 ∧ s.loadImage img = { s with load := .tooLarge img.length }) ∨
    (img.length = 0 ∧ s.loadImage img = { s with load := .awaitingImage }) ∨
    (0 < img.length ∧ img.length ≤ 3584 ∧
      s.loadImage img = { s with mem := copyImage Config.params s.mem 0x200 img, load := .loaded }) := by
  have hb : Config.programBase = 512 := rfl
  unfold State.loadImage
  cases img with
  | nil => exact .inr (.inl ⟨rfl, rfl⟩)
  | cons b bs =>
    by_cases h : Config.programBase + (b :: bs).length > 4096
    · exact .inl ⟨by omega, if_pos h⟩
    · exact .inr (.inr ⟨Nat.succ_pos _, by omega, if_neg h⟩)

end Sys2Proof.Machine
end

