-- ==== Sys2Proof/Laws/PerInstr.lean ====
section
/-! SUPPORT. Facts about every instruction as syntax, one lemma per constructor: family TableRow says that the word of
an instruction matches the mask and match of its row of the opcode table (30_encoding.md R47). -/

namespace Sys2Proof.Laws.TableRow

/-- The instruction's word matches its own row of the opcode table. -/
def Statement (i : Instr) : Prop := encode i &&& (rowOf i).mask = (rowOf i).value

theorem inGroup_wordNNN {g : Nat} (hg : g < 16) (nnn : BitVec 12) :
    wordNNN g nnn &&& 0xF000#16 = BitVec.ofNat 16 (g * 4096) := by
  have := nnn.isLt
  rw [and_group, wordNNN_toNat hg, show (g * 4096 + nnn.toNat) / 4096 = g by omega]

theorem inGroup_wordXNN {g : Nat} (hg : g < 16) (x : Reg) (nn : Byte) :
    wordXNN g x nn &&& 0xF000#16 = BitVec.ofNat 16 (g * 4096) := by
  have := nn.isLt
  have := x.isLt
  rw [and_group, wordXNN_toNat hg, show (g * 4096 + x.val * 256 + nn.toNat) / 4096 = g by omega]

theorem inGroup_wordXYN {g : Nat} (hg : g < 16) (x y : Reg) (n : BitVec 4) :
    wordXYN g x y n &&& 0xF000#16 = BitVec.ofNat 16 (g * 4096) := by
  have := n.isLt
  have := x.isLt
  have := y.isLt
  rw [and_group, wordXYN_toNat hg, show (g * 4096 + x.val * 256 + y.val * 16 + n.toNat) / 4096 = g by omega]

theorem inRow_wordXNN {g : Nat} (hg : g < 16) (x : Reg) (nn : Byte) :
    wordXNN g x nn &&& 0xF0FF#16 = BitVec.ofNat 16 (g * 4096 + nn.toNat) := by
  have := nn.isLt
  have := x.isLt
  rw [and_group_byte, wordXNN_toNat hg, show (g * 4096 + x.val * 256 + nn.toNat) / 4096 = g by omega,
    show (g * 4096 + x.val * 256 + nn.toNat) % 256 = nn.toNat by omega]

theorem inRow_wordXYN {g : Nat} (hg : g < 16) (x y : Reg) (n : BitVec 4) :
    wordXYN g x y n &&& 0xF00F#16 = BitVec.ofNat 16 (g * 4096 + n.toNat) := by
  have := n.isLt
  have := x.isLt
  have := y.isLt
  rw [and_group_nibble, wordXYN_toNat hg, show (g * 4096 + x.val * 256 + y.val * 16 + n.toNat) / 4096 = g by omega,
    show (g * 4096 + x.val * 256 + y.val * 16 + n.toNat) % 16 = n.toNat by omega]

theorem sys (nnn : BitVec 12) : Statement (.sys nnn) := inGroup_wordNNN (by decide) nnn
theorem cls (x : Reg) : Statement (.cls x) := inRow_wordXNN (by decide) x _
theorem ret (x : Reg) : Statement (.ret x) := inRow_wordXNN (by decide) x _
theorem jp (nnn : BitVec 12) : Statement (.jp nnn) := inGroup_wordNNN (by decide) nnn
theorem call (nnn : BitVec 12) : Statement (.call nnn) := inGroup_wordNNN (by decide) nnn
theorem seImm (x : Reg) (nn : Byte) : Statement (.seImm x nn) := inGroup_wordXNN (by decide) x nn
theorem sneImm (x : Reg) (nn : Byte) : Statement (.sneImm x nn) := inGroup_wordXNN (by decide) x nn
theorem seReg (x y : Reg) (n : BitVec 4) : Statement (.seReg x y n) := inGroup_wordXYN (by decide) x y n
theorem ldImm (x : Reg) (nn : Byte) : Statement (.ldImm x nn) := inGroup_wordXNN (by decide) x nn
theorem addImm (x : Reg) (nn : Byte) : Statement (.addImm x nn) := inGroup_wordXNN (by decide) x nn
theorem ldReg (x y : Reg) : Statement (.ldReg x y) := inRow_wordXYN (by decide) x y _
theorem orReg (x y : Reg) : Statement (.orReg x y) := inRow_wordXYN (by decide) x y _
theorem andReg (x y : Reg) : Statement (.andReg x y) := inRow_wordXYN (by decide) x y _
theorem xorReg (x y : Reg) : Statement (.xorReg x y) := inRow_wordXYN (by decide) x y _
theorem addReg (x y : Reg) : Statement (.addReg x y) := inRow_wordXYN (by decide) x y _
theorem sub (x y : Reg) : Statement (.sub x y) := inRow_wordXYN (by decide) x y _
theorem shr (x y : Reg) : Statement (.shr x y) := inRow_wordXYN (by decide) x y _
theorem subn (x y : Reg) : Statement (.subn x y) := inRow_wordXYN (by decide) x y _
theorem shl (x y : Reg) : Statement (.shl x y) := inRow_wordXYN (by decide) x y _
theorem sneReg (x y : Reg) (n : BitVec 4) : Statement (.sneReg x y n) := inGroup_wordXYN (by decide) x y n
theorem ldI (nnn : BitVec 12) : Statement (.ldI nnn) := inGroup_wordNNN (by decide) nnn
theorem jpV0 (nnn : BitVec 12) : Statement (.jpV0 nnn) := inGroup_wordNNN (by decide) nnn
theorem rnd (x : Reg) (nn : Byte) : Statement (.rnd x nn) := inGroup_wordXNN (by decide) x nn
theorem drw (x y : Reg) (n : BitVec 4) : Statement (.drw x y n) := inGroup_wordXYN (by decide) x y n
theorem skp (x : Reg) : Statement (.skp x) := inRow_wordXNN (by decide) x _
theorem sknp (x : Reg) : Statement (.sknp x) := inRow_wordXNN (by decide) x _
theorem ldVxDt (x : Reg) : Statement (.ldVxDt x) := inRow_wordXNN (by decide) x _
theorem ldVxK (x : Reg) : Statement (.ldVxK x) := inRow_wordXNN (by decide) x _
theorem ldDtVx (x : Reg) : Statement (.ldDtVx x) := inRow_wordXNN (by decide) x _
theorem ldStVx (x : Reg) : Statement (.ldStVx x) := inRow_wordXNN (by decide) x _
theorem addI (x : Reg) : Statement (.addI x) := inRow_wordXNN (by decide) x _
theorem ldF (x : Reg) : Statement (.ldF x) := inRow_wordXNN (by decide) x _
theorem ldB (x : Reg) : Statement (.ldB x) := inRow_wordXNN (by decide) x _
theorem ldMemVx (x : Reg) : Statement (.ldMemVx x) := inRow_wordXNN (by decide) x _
theorem ldVxMem (x : Reg) : Statement (.ldVxMem x) := inRow_wordXNN (by decide) x _

end Sys2Proof.Laws.TableRow
end

