-- ==== Sys2Proof/Laws/State.lean ====
section
/-! SUPPORT. What each update of the state does to each field, so that no proof unfolds a record update. -/

namespace Sys2Proof.Machine

variable (s : State)

/-! ### setV -/

@[simp] theorem State.setV_v (x : Reg) (b : Byte) : (s.setV x b).v = s.v.set x.val b x.isLt := rfl
@[simp] theorem State.setV_i (x : Reg) (b : Byte) : (s.setV x b).i = s.i := rfl
@[simp] theorem State.setV_pc (x : Reg) (b : Byte) : (s.setV x b).pc = s.pc := rfl
@[simp] theorem State.setV_stack (x : Reg) (b : Byte) : (s.setV x b).stack = s.stack := rfl
@[simp] theorem State.setV_sp (x : Reg) (b : Byte) : (s.setV x b).sp = s.sp := rfl
@[simp] theorem State.setV_dt (x : Reg) (b : Byte) : (s.setV x b).dt = s.dt := rfl
@[simp] theorem State.setV_st (x : Reg) (b : Byte) : (s.setV x b).st = s.st := rfl
@[simp] theorem State.setV_mem (x : Reg) (b : Byte) : (s.setV x b).mem = s.mem := rfl
@[simp] theorem State.setV_fb (x : Reg) (b : Byte) : (s.setV x b).fb = s.fb := rfl
@[simp] theorem State.setV_dirty (x : Reg) (b : Byte) : (s.setV x b).dirty = s.dirty := rfl
@[simp] theorem State.setV_status (x : Reg) (b : Byte) : (s.setV x b).status = s.status := rfl
@[simp] theorem State.setV_statusOut (x : Reg) (b : Byte) : (s.setV x b).statusOut = s.statusOut := rfl
@[simp] theorem State.setV_beep (x : Reg) (b : Byte) : (s.setV x b).beep = s.beep := rfl
@[simp] theorem State.setV_load (x : Reg) (b : Byte) : (s.setV x b).load = s.load := rfl
@[simp] theorem State.setV_inputs (x : Reg) (b : Byte) : (s.setV x b).inputs = s.inputs := rfl
@[simp] theorem State.setV_cycle (x : Reg) (b : Byte) : (s.setV x b).cycle = s.cycle := rfl

/-! ### setFlag -/

@[simp] theorem State.setFlag_v (b : Byte) : (s.setFlag b).v = s.v.set 15 b := rfl
@[simp] theorem State.setFlag_i (b : Byte) : (s.setFlag b).i = s.i := rfl
@[simp] theorem State.setFlag_pc (b : Byte) : (s.setFlag b).pc = s.pc := rfl
@[simp] theorem State.setFlag_stack (b : Byte) : (s.setFlag b).stack = s.stack := rfl
@[simp] theorem State.setFlag_sp (b : Byte) : (s.setFlag b).sp = s.sp := rfl
@[simp] theorem State.setFlag_dt (b : Byte) : (s.setFlag b).dt = s.dt := rfl
@[simp] theorem State.setFlag_st (b : Byte) : (s.setFlag b).st = s.st := rfl
@[simp] theorem State.setFlag_mem (b : Byte) : (s.setFlag b).mem = s.mem := rfl
@[simp] theorem State.setFlag_fb (b : Byte) : (s.setFlag b).fb = s.fb := rfl
@[simp] theorem State.setFlag_dirty (b : Byte) : (s.setFlag b).dirty = s.dirty := rfl
@[simp] theorem State.setFlag_status (b : Byte) : (s.setFlag b).status = s.status := rfl
@[simp] theorem State.setFlag_statusOut (b : Byte) : (s.setFlag b).statusOut = s.statusOut := rfl
@[simp] theorem State.setFlag_beep (b : Byte) : (s.setFlag b).beep = s.beep := rfl
@[simp] theorem State.setFlag_load (b : Byte) : (s.setFlag b).load = s.load := rfl
@[simp] theorem State.setFlag_inputs (b : Byte) : (s.setFlag b).inputs = s.inputs := rfl
@[simp] theorem State.setFlag_cycle (b : Byte) : (s.setFlag b).cycle = s.cycle := rfl

/-! ### setResultAndFlag -/

@[simp] theorem State.setResultAndFlag_v (x : Reg) (a f : Byte) : (s.setResultAndFlag Config.params x a f).v = (s.v.set x.val a x.isLt).set 15 f := rfl
@[simp] theorem State.setResultAndFlag_i (x : Reg) (a f : Byte) : (s.setResultAndFlag Config.params x a f).i = s.i := rfl
@[simp] theorem State.setResultAndFlag_pc (x : Reg) (a f : Byte) : (s.setResultAndFlag Config.params x a f).pc = s.pc := rfl
@[simp] theorem State.setResultAndFlag_stack (x : Reg) (a f : Byte) : (s.setResultAndFlag Config.params x a f).stack = s.stack := rfl
@[simp] theorem State.setResultAndFlag_sp (x : Reg) (a f : Byte) : (s.setResultAndFlag Config.params x a f).sp = s.sp := rfl
@[simp] theorem State.setResultAndFlag_dt (x : Reg) (a f : Byte) : (s.setResultAndFlag Config.params x a f).dt = s.dt := rfl
@[simp] theorem State.setResultAndFlag_st (x : Reg) (a f : Byte) : (s.setResultAndFlag Config.params x a f).st = s.st := rfl
@[simp] theorem State.setResultAndFlag_mem (x : Reg) (a f : Byte) : (s.setResultAndFlag Config.params x a f).mem = s.mem := rfl
@[simp] theorem State.setResultAndFlag_fb (x : Reg) (a f : Byte) : (s.setResultAndFlag Config.params x a f).fb = s.fb := rfl
@[simp] theorem State.setResultAndFlag_dirty (x : Reg) (a f : Byte) : (s.setResultAndFlag Config.params x a f).dirty = s.dirty := rfl
@[simp] theorem State.setResultAndFlag_status (x : Reg) (a f : Byte) : (s.setResultAndFlag Config.params x a f).status = s.status := rfl
@[simp] theorem State.setResultAndFlag_statusOut (x : Reg) (a f : Byte) : (s.setResultAndFlag Config.params x a f).statusOut = s.statusOut := rfl
@[simp] theorem State.setResultAndFlag_beep (x : Reg) (a f : Byte) : (s.setResultAndFlag Config.params x a f).beep = s.beep := rfl
@[simp] theorem State.setResultAndFlag_load (x : Reg) (a f : Byte) : (s.setResultAndFlag Config.params x a f).load = s.load := rfl
@[simp] theorem State.setResultAndFlag_inputs (x : Reg) (a f : Byte) : (s.setResultAndFlag Config.params x a f).inputs = s.inputs := rfl
@[simp] theorem State.setResultAndFlag_cycle (x : Reg) (a f : Byte) : (s.setResultAndFlag Config.params x a f).cycle = s.cycle := rfl

/-! ### loadV -/

@[simp] theorem State.loadV_v (bs : List Byte) : (s.loadV bs).v = loadFrom 0 bs s.v := rfl
@[simp] theorem State.loadV_i (bs : List Byte) : (s.loadV bs).i = s.i := rfl
@[simp] theorem State.loadV_pc (bs : List Byte) : (s.loadV bs).pc = s.pc := rfl
@[simp] theorem State.loadV_stack (bs : List Byte) : (s.loadV bs).stack = s.stack := rfl
@[simp] theorem State.loadV_sp (bs : List Byte) : (s.loadV bs).sp = s.sp := rfl
@[simp] theorem State.loadV_dt (bs : List Byte) : (s.loadV bs).dt = s.dt := rfl
@[simp] theorem State.loadV_st (bs : List Byte) : (s.loadV bs).st = s.st := rfl
@[simp] theorem State.loadV_mem (bs : List Byte) : (s.loadV bs).mem = s.mem := rfl
@[simp] theorem State.loadV_fb (bs : List Byte) : (s.loadV bs).fb = s.fb := rfl
@[simp] theorem State.loadV_dirty (bs : List Byte) : (s.loadV bs).dirty = s.dirty := rfl
@[simp] theorem State.loadV_status (bs : List Byte) : (s.loadV bs).status = s.status := rfl
@[simp] theorem State.loadV_statusOut (bs : List Byte) : (s.loadV bs).statusOut = s.statusOut := rfl
@[simp] theorem State.loadV_beep (bs : List Byte) : (s.loadV bs).beep = s.beep := rfl
@[simp] theorem State.loadV_load (bs : List Byte) : (s.loadV bs).load = s.load := rfl
@[simp] theorem State.loadV_inputs (bs : List Byte) : (s.loadV bs).inputs = s.inputs := rfl
@[simp] theorem State.loadV_cycle (bs : List Byte) : (s.loadV bs).cycle = s.cycle := rfl

/-! ### setI -/

@[simp] theorem State.setI_v (w : Word) : (s.setI w).v = s.v := rfl
@[simp] theorem State.setI_i (w : Word) : (s.setI w).i = w := rfl
@[simp] theorem State.setI_pc (w : Word) : (s.setI w).pc = s.pc := rfl
@[simp] theorem State.setI_stack (w : Word) : (s.setI w).stack = s.stack := rfl
@[simp] theorem State.setI_sp (w : Word) : (s.setI w).sp = s.sp := rfl
@[simp] theorem State.setI_dt (w : Word) : (s.setI w).dt = s.dt := rfl
@[simp] theorem State.setI_st (w : Word) : (s.setI w).st = s.st := rfl
@[simp] theorem State.setI_mem (w : Word) : (s.setI w).mem = s.mem := rfl
@[simp] theorem State.setI_fb (w : Word) : (s.setI w).fb = s.fb := rfl
@[simp] theorem State.setI_dirty (w : Word) : (s.setI w).dirty = s.dirty := rfl
@[simp] theorem State.setI_status (w : Word) : (s.setI w).status = s.status := rfl
@[simp] theorem State.setI_statusOut (w : Word) : (s.setI w).statusOut = s.statusOut := rfl
@[simp] theorem State.setI_beep (w : Word) : (s.setI w).beep = s.beep := rfl
@[simp] theorem State.setI_load (w : Word) : (s.setI w).load = s.load := rfl
@[simp] theorem State.setI_inputs (w : Word) : (s.setI w).inputs = s.inputs := rfl
@[simp] theorem State.setI_cycle (w : Word) : (s.setI w).cycle = s.cycle := rfl

/-! ### setDT -/

@[simp] theorem State.setDT_v (b : Byte) : (s.setDT b).v = s.v := rfl
@[simp] theorem State.setDT_i (b : Byte) : (s.setDT b).i = s.i := rfl
@[simp] theorem State.setDT_pc (b : Byte) : (s.setDT b).pc = s.pc := rfl
@[simp] theorem State.setDT_stack (b : Byte) : (s.setDT b).stack = s.stack := rfl
@[simp] theorem State.setDT_sp (b : Byte) : (s.setDT b).sp = s.sp := rfl
@[simp] theorem State.setDT_dt (b : Byte) : (s.setDT b).dt = b := rfl
@[simp] theorem State.setDT_st (b : Byte) : (s.setDT b).st = s.st := rfl
@[simp] theorem State.setDT_mem (b : Byte) : (s.setDT b).mem = s.mem := rfl
@[simp] theorem State.setDT_fb (b : Byte) : (s.setDT b).fb = s.fb := rfl
@[simp] theorem State.setDT_dirty (b : Byte) : (s.setDT b).dirty = s.dirty := rfl
@[simp] theorem State.setDT_status (b : Byte) : (s.setDT b).status = s.status := rfl
@[simp] theorem State.setDT_statusOut (b : Byte) : (s.setDT b).statusOut = s.statusOut := rfl
@[simp] theorem State.setDT_beep (b : Byte) : (s.setDT b).beep = s.beep := rfl
@[simp] theorem State.setDT_load (b : Byte) : (s.setDT b).load = s.load := rfl
@[simp] theorem State.setDT_inputs (b : Byte) : (s.setDT b).inputs = s.inputs := rfl
@[simp] theorem State.setDT_cycle (b : Byte) : (s.setDT b).cycle = s.cycle := rfl

/-! ### setST -/

@[simp] theorem State.setST_v (b : Byte) : (s.setST b).v = s.v := rfl
@[simp] theorem State.setST_i (b : Byte) : (s.setST b).i = s.i := rfl
@[simp] theorem State.setST_pc (b : Byte) : (s.setST b).pc = s.pc := rfl
@[simp] theorem State.setST_stack (b : Byte) : (s.setST b).stack = s.stack := rfl
@[simp] theorem State.setST_sp (b : Byte) : (s.setST b).sp = s.sp := rfl
@[simp] theorem State.setST_dt (b : Byte) : (s.setST b).dt = s.dt := rfl
@[simp] theorem State.setST_st (b : Byte) : (s.setST b).st = b := rfl
@[simp] theorem State.setST_mem (b : Byte) : (s.setST b).mem = s.mem := rfl
@[simp] theorem State.setST_fb (b : Byte) : (s.setST b).fb = s.fb := rfl
@[simp] theorem State.setST_dirty (b : Byte) : (s.setST b).dirty = s.dirty := rfl
@[simp] theorem State.setST_status (b : Byte) : (s.setST b).status = s.status := rfl
@[simp] theorem State.setST_statusOut (b : Byte) : (s.setST b).statusOut = s.statusOut := rfl
@[simp] theorem State.setST_beep (b : Byte) : (s.setST b).beep = s.beep := rfl
@[simp] theorem State.setST_load (b : Byte) : (s.setST b).load = s.load := rfl
@[simp] theorem State.setST_inputs (b : Byte) : (s.setST b).inputs = s.inputs := rfl
@[simp] theorem State.setST_cycle (b : Byte) : (s.setST b).cycle = s.cycle := rfl

/-! ### setMem -/

@[simp] theorem State.setMem_v (m : Memory) : (s.setMem m).v = s.v := rfl
@[simp] theorem State.setMem_i (m : Memory) : (s.setMem m).i = s.i := rfl
@[simp] theorem State.setMem_pc (m : Memory) : (s.setMem m).pc = s.pc := rfl
@[simp] theorem State.setMem_stack (m : Memory) : (s.setMem m).stack = s.stack := rfl
@[simp] theorem State.setMem_sp (m : Memory) : (s.setMem m).sp = s.sp := rfl
@[simp] theorem State.setMem_dt (m : Memory) : (s.setMem m).dt = s.dt := rfl
@[simp] theorem State.setMem_st (m : Memory) : (s.setMem m).st = s.st := rfl
@[simp] theorem State.setMem_mem (m : Memory) : (s.setMem m).mem = m := rfl
@[simp] theorem State.setMem_fb (m : Memory) : (s.setMem m).fb = s.fb := rfl
@[simp] theorem State.setMem_dirty (m : Memory) : (s.setMem m).dirty = s.dirty := rfl
@[simp] theorem State.setMem_status (m : Memory) : (s.setMem m).status = s.status := rfl
@[simp] theorem State.setMem_statusOut (m : Memory) : (s.setMem m).statusOut = s.statusOut := rfl
@[simp] theorem State.setMem_beep (m : Memory) : (s.setMem m).beep = s.beep := rfl
@[simp] theorem State.setMem_load (m : Memory) : (s.setMem m).load = s.load := rfl
@[simp] theorem State.setMem_inputs (m : Memory) : (s.setMem m).inputs = s.inputs := rfl
@[simp] theorem State.setMem_cycle (m : Memory) : (s.setMem m).cycle = s.cycle := rfl

/-! ### setFb -/

@[simp] theorem State.setFb_v (fb : Framebuffer) : (s.setFb fb).v = s.v := rfl
@[simp] theorem State.setFb_i (fb : Framebuffer) : (s.setFb fb).i = s.i := rfl
@[simp] theorem State.setFb_pc (fb : Framebuffer) : (s.setFb fb).pc = s.pc := rfl
@[simp] theorem State.setFb_stack (fb : Framebuffer) : (s.setFb fb).stack = s.stack := rfl
@[simp] theorem State.setFb_sp (fb : Framebuffer) : (s.setFb fb).sp = s.sp := rfl
@[simp] theorem State.setFb_dt (fb : Framebuffer) : (s.setFb fb).dt = s.dt := rfl
@[simp] theorem State.setFb_st (fb : Framebuffer) : (s.setFb fb).st = s.st := rfl
@[simp] theorem State.setFb_mem (fb : Framebuffer) : (s.setFb fb).mem = s.mem := rfl
@[simp] theorem State.setFb_fb (fb : Framebuffer) : (s.setFb fb).fb = fb := rfl
@[simp] theorem State.setFb_dirty (fb : Framebuffer) : (s.setFb fb).dirty = true := rfl
@[simp] theorem State.setFb_status (fb : Framebuffer) : (s.setFb fb).status = s.status := rfl
@[simp] theorem State.setFb_statusOut (fb : Framebuffer) : (s.setFb fb).statusOut = s.statusOut := rfl
@[simp] theorem State.setFb_beep (fb : Framebuffer) : (s.setFb fb).beep = s.beep := rfl
@[simp] theorem State.setFb_load (fb : Framebuffer) : (s.setFb fb).load = s.load := rfl
@[simp] theorem State.setFb_inputs (fb : Framebuffer) : (s.setFb fb).inputs = s.inputs := rfl
@[simp] theorem State.setFb_cycle (fb : Framebuffer) : (s.setFb fb).cycle = s.cycle := rfl

/-! ### complete -/

@[simp] theorem State.complete_v (w : Word) : (s.complete w).v = s.v := rfl
@[simp] theorem State.complete_i (w : Word) : (s.complete w).i = s.i := rfl
@[simp] theorem State.complete_pc (w : Word) : (s.complete w).pc = w := rfl
@[simp] theorem State.complete_stack (w : Word) : (s.complete w).stack = s.stack := rfl
@[simp] theorem State.complete_sp (w : Word) : (s.complete w).sp = s.sp := rfl
@[simp] theorem State.complete_dt (w : Word) : (s.complete w).dt = s.dt := rfl
@[simp] theorem State.complete_st (w : Word) : (s.complete w).st = s.st := rfl
@[simp] theorem State.complete_mem (w : Word) : (s.complete w).mem = s.mem := rfl
@[simp] theorem State.complete_fb (w : Word) : (s.complete w).fb = s.fb := rfl
@[simp] theorem State.complete_dirty (w : Word) : (s.complete w).dirty = s.dirty := rfl
@[simp] theorem State.complete_status (w : Word) : (s.complete w).status = s.status := rfl
@[simp] theorem State.complete_statusOut (w : Word) : (s.complete w).statusOut = .executed := rfl
@[simp] theorem State.complete_beep (w : Word) : (s.complete w).beep = s.beep := rfl
@[simp] theorem State.complete_load (w : Word) : (s.complete w).load = s.load := rfl
@[simp] theorem State.complete_inputs (w : Word) : (s.complete w).inputs = s.inputs := rfl
@[simp] theorem State.complete_cycle (w : Word) : (s.complete w).cycle = s.cycle := rfl

/-! ### advance -/

@[simp] theorem State.advance_v : (s.advance).v = s.v := rfl
@[simp] theorem State.advance_i : (s.advance).i = s.i := rfl
@[simp] theorem State.advance_pc : (s.advance).pc = s.pc + 2 := rfl
@[simp] theorem State.advance_stack : (s.advance).stack = s.stack := rfl
@[simp] theorem State.advance_sp : (s.advance).sp = s.sp := rfl
@[simp] theorem State.advance_dt : (s.advance).dt = s.dt := rfl
@[simp] theorem State.advance_st : (s.advance).st = s.st := rfl
@[simp] theorem State.advance_mem : (s.advance).mem = s.mem := rfl
@[simp] theorem State.advance_fb : (s.advance).fb = s.fb := rfl
@[simp] theorem State.advance_dirty : (s.advance).dirty = s.dirty := rfl
@[simp] theorem State.advance_status : (s.advance).status = s.status := rfl
@[simp] theorem State.advance_statusOut : (s.advance).statusOut = .executed := rfl
@[simp] theorem State.advance_beep : (s.advance).beep = s.beep := rfl
@[simp] theorem State.advance_load : (s.advance).load = s.load := rfl
@[simp] theorem State.advance_inputs : (s.advance).inputs = s.inputs := rfl
@[simp] theorem State.advance_cycle : (s.advance).cycle = s.cycle := rfl

/-! ### skipIf -/

@[simp] theorem State.skipIf_v (c : Bool) : (s.skipIf c).v = s.v := rfl
@[simp] theorem State.skipIf_i (c : Bool) : (s.skipIf c).i = s.i := rfl
@[simp] theorem State.skipIf_pc (c : Bool) : (s.skipIf c).pc = if c then s.pc + 4 else s.pc + 2 := rfl
@[simp] theorem State.skipIf_stack (c : Bool) : (s.skipIf c).stack = s.stack := rfl
@[simp] theorem State.skipIf_sp (c : Bool) : (s.skipIf c).sp = s.sp := rfl
@[simp] theorem State.skipIf_dt (c : Bool) : (s.skipIf c).dt = s.dt := rfl
@[simp] theorem State.skipIf_st (c : Bool) : (s.skipIf c).st = s.st := rfl
@[simp] theorem State.skipIf_mem (c : Bool) : (s.skipIf c).mem = s.mem := rfl
@[simp] theorem State.skipIf_fb (c : Bool) : (s.skipIf c).fb = s.fb := rfl
@[simp] theorem State.skipIf_dirty (c : Bool) : (s.skipIf c).dirty = s.dirty := rfl
@[simp] theorem State.skipIf_status (c : Bool) : (s.skipIf c).status = s.status := rfl
@[simp] theorem State.skipIf_statusOut (c : Bool) : (s.skipIf c).statusOut = .executed := rfl
@[simp] theorem State.skipIf_beep (c : Bool) : (s.skipIf c).beep = s.beep := rfl
@[simp] theorem State.skipIf_load (c : Bool) : (s.skipIf c).load = s.load := rfl
@[simp] theorem State.skipIf_inputs (c : Bool) : (s.skipIf c).inputs = s.inputs := rfl
@[simp] theorem State.skipIf_cycle (c : Bool) : (s.skipIf c).cycle = s.cycle := rfl

/-! ### awaitKey -/

@[simp] theorem State.awaitKey_v : (s.awaitKey).v = s.v := rfl
@[simp] theorem State.awaitKey_i : (s.awaitKey).i = s.i := rfl
@[simp] theorem State.awaitKey_pc : (s.awaitKey).pc = s.pc := rfl
@[simp] theorem State.awaitKey_stack : (s.awaitKey).stack = s.stack := rfl
@[simp] theorem State.awaitKey_sp : (s.awaitKey).sp = s.sp := rfl
@[simp] theorem State.awaitKey_dt : (s.awaitKey).dt = s.dt := rfl
@[simp] theorem State.awaitKey_st : (s.awaitKey).st = s.st := rfl
@[simp] theorem State.awaitKey_mem : (s.awaitKey).mem = s.mem := rfl
@[simp] theorem State.awaitKey_fb : (s.awaitKey).fb = s.fb := rfl
@[simp] theorem State.awaitKey_dirty : (s.awaitKey).dirty = s.dirty := rfl
@[simp] theorem State.awaitKey_status : (s.awaitKey).status = s.status := rfl
@[simp] theorem State.awaitKey_statusOut : (s.awaitKey).statusOut = .awaitingInput := rfl
@[simp] theorem State.awaitKey_beep : (s.awaitKey).beep = s.beep := rfl
@[simp] theorem State.awaitKey_load : (s.awaitKey).load = s.load := rfl
@[simp] theorem State.awaitKey_inputs : (s.awaitKey).inputs = s.inputs := rfl
@[simp] theorem State.awaitKey_cycle : (s.awaitKey).cycle = s.cycle := rfl

/-! ### raise -/

@[simp] theorem State.raise_v (f : FaultRecord) : (s.raise f).v = (Config.afterFault s.cycle).v := rfl
@[simp] theorem State.raise_i (f : FaultRecord) : (s.raise f).i = (Config.afterFault s.cycle).i := rfl
@[simp] theorem State.raise_pc (f : FaultRecord) : (s.raise f).pc = s.pc := rfl
@[simp] theorem State.raise_stack (f : FaultRecord) : (s.raise f).stack = (Config.afterFault s.cycle).stack := rfl
@[simp] theorem State.raise_sp (f : FaultRecord) : (s.raise f).sp = (Config.afterFault s.cycle).sp := rfl
@[simp] theorem State.raise_dt (f : FaultRecord) : (s.raise f).dt = (Config.afterFault s.cycle).dt := rfl
@[simp] theorem State.raise_st (f : FaultRecord) : (s.raise f).st = (Config.afterFault s.cycle).st := rfl
@[simp] theorem State.raise_mem (f : FaultRecord) : (s.raise f).mem = Memory.ofFun Config.params (Config.afterFault s.cycle).mem := by simp only [State.raise]
@[simp] theorem State.raise_fb (f : FaultRecord) : (s.raise f).fb = (Config.afterFault s.cycle).fb := rfl
@[simp] theorem State.raise_dirty (f : FaultRecord) : (s.raise f).dirty = (Config.afterFault s.cycle).dirty := rfl
@[simp] theorem State.raise_status (f : FaultRecord) : (s.raise f).status = .faulted f := rfl
@[simp] theorem State.raise_statusOut (f : FaultRecord) : (s.raise f).statusOut = .fatal f := rfl
@[simp] theorem State.raise_beep (f : FaultRecord) : (s.raise f).beep = s.beep := rfl
@[simp] theorem State.raise_load (f : FaultRecord) : (s.raise f).load = s.load := rfl
@[simp] theorem State.raise_inputs (f : FaultRecord) : (s.raise f).inputs = s.inputs := rfl
@[simp] theorem State.raise_cycle (f : FaultRecord) : (s.raise f).cycle = s.cycle := rfl

/-! ### beginCycle -/

@[simp] theorem State.beginCycle_v : (s.beginCycle).v = s.v := rfl
@[simp] theorem State.beginCycle_i : (s.beginCycle).i = s.i := rfl
@[simp] theorem State.beginCycle_pc : (s.beginCycle).pc = s.pc := rfl
@[simp] theorem State.beginCycle_stack : (s.beginCycle).stack = s.stack := rfl
@[simp] theorem State.beginCycle_sp : (s.beginCycle).sp = s.sp := rfl
@[simp] theorem State.beginCycle_dt : (s.beginCycle).dt = s.dt := rfl
@[simp] theorem State.beginCycle_st : (s.beginCycle).st = s.st := rfl
@[simp] theorem State.beginCycle_mem : (s.beginCycle).mem = s.mem := rfl
@[simp] theorem State.beginCycle_fb : (s.beginCycle).fb = s.fb := rfl
@[simp] theorem State.beginCycle_dirty : (s.beginCycle).dirty = (s.dirty && !s.input.dirtyClear) := rfl
@[simp] theorem State.beginCycle_status : (s.beginCycle).status = s.status := rfl
@[simp] theorem State.beginCycle_statusOut : (s.beginCycle).statusOut = s.statusOut := rfl
@[simp] theorem State.beginCycle_beep : (s.beginCycle).beep = false := rfl
@[simp] theorem State.beginCycle_load : (s.beginCycle).load = s.load := rfl
@[simp] theorem State.beginCycle_inputs : (s.beginCycle).inputs = s.inputs := rfl
@[simp] theorem State.beginCycle_cycle : (s.beginCycle).cycle = s.cycle := rfl

/-! ### unknownOpcode -/

@[simp] theorem State.unknownOpcode_v (op : Word) : (s.unknownOpcode op).v = s.v := rfl
@[simp] theorem State.unknownOpcode_i (op : Word) : (s.unknownOpcode op).i = s.i := rfl
@[simp] theorem State.unknownOpcode_pc (op : Word) : (s.unknownOpcode op).pc = s.pc + 2 := rfl
@[simp] theorem State.unknownOpcode_stack (op : Word) : (s.unknownOpcode op).stack = s.stack := rfl
@[simp] theorem State.unknownOpcode_sp (op : Word) : (s.unknownOpcode op).sp = s.sp := rfl
@[simp] theorem State.unknownOpcode_dt (op : Word) : (s.unknownOpcode op).dt = s.dt := rfl
@[simp] theorem State.unknownOpcode_st (op : Word) : (s.unknownOpcode op).st = s.st := rfl
@[simp] theorem State.unknownOpcode_mem (op : Word) : (s.unknownOpcode op).mem = s.mem := rfl
@[simp] theorem State.unknownOpcode_fb (op : Word) : (s.unknownOpcode op).fb = s.fb := rfl
@[simp] theorem State.unknownOpcode_dirty (op : Word) : (s.unknownOpcode op).dirty = s.dirty := rfl
@[simp] theorem State.unknownOpcode_status (op : Word) : (s.unknownOpcode op).status = s.status := rfl
@[simp] theorem State.unknownOpcode_statusOut (op : Word) : (s.unknownOpcode op).statusOut = .unknownOpcode s.pc op := rfl
@[simp] theorem State.unknownOpcode_beep (op : Word) : (s.unknownOpcode op).beep = s.beep := rfl
@[simp] theorem State.unknownOpcode_load (op : Word) : (s.unknownOpcode op).load = s.load := rfl
@[simp] theorem State.unknownOpcode_inputs (op : Word) : (s.unknownOpcode op).inputs = s.inputs := rfl
@[simp] theorem State.unknownOpcode_cycle (op : Word) : (s.unknownOpcode op).cycle = s.cycle := rfl

/-! ### tick -/

@[simp] theorem State.tick_v : (s.tick).v = s.v := rfl
@[simp] theorem State.tick_i : (s.tick).i = s.i := rfl
@[simp] theorem State.tick_pc : (s.tick).pc = s.pc := rfl
@[simp] theorem State.tick_stack : (s.tick).stack = s.stack := rfl
@[simp] theorem State.tick_sp : (s.tick).sp = s.sp := rfl
@[simp] theorem State.tick_dt : (s.tick).dt = countDown s.dt := rfl
@[simp] theorem State.tick_st : (s.tick).st = countDown s.st := rfl
@[simp] theorem State.tick_mem : (s.tick).mem = s.mem := rfl
@[simp] theorem State.tick_fb : (s.tick).fb = s.fb := rfl
@[simp] theorem State.tick_dirty : (s.tick).dirty = s.dirty := rfl
@[simp] theorem State.tick_status : (s.tick).status = s.status := rfl
@[simp] theorem State.tick_statusOut : (s.tick).statusOut = s.statusOut := rfl
@[simp] theorem State.tick_beep : (s.tick).beep = if s.st = 1 then true else s.beep := rfl
@[simp] theorem State.tick_load : (s.tick).load = s.load := rfl
@[simp] theorem State.tick_inputs : (s.tick).inputs = s.inputs := rfl
@[simp] theorem State.tick_cycle : (s.tick).cycle = s.cycle := rfl

/-! ### nextInput -/

@[simp] theorem State.nextInput_v : (s.nextInput).v = s.v := rfl
@[simp] theorem State.nextInput_i : (s.nextInput).i = s.i := rfl
@[simp] theorem State.nextInput_pc : (s.nextInput).pc = s.pc := rfl
@[simp] theorem State.nextInput_stack : (s.nextInput).stack = s.stack := rfl
@[simp] theorem State.nextInput_sp : (s.nextInput).sp = s.sp := rfl
@[simp] theorem State.nextInput_dt : (s.nextInput).dt = s.dt := rfl
@[simp] theorem State.nextInput_st : (s.nextInput).st = s.st := rfl
@[simp] theorem State.nextInput_mem : (s.nextInput).mem = s.mem := rfl
@[simp] theorem State.nextInput_fb : (s.nextInput).fb = s.fb := rfl
@[simp] theorem State.nextInput_dirty : (s.nextInput).dirty = s.dirty := rfl
@[simp] theorem State.nextInput_status : (s.nextInput).status = s.status := rfl
@[simp] theorem State.nextInput_statusOut : (s.nextInput).statusOut = s.statusOut := rfl
@[simp] theorem State.nextInput_beep : (s.nextInput).beep = s.beep := rfl
@[simp] theorem State.nextInput_load : (s.nextInput).load = s.load := rfl
@[simp] theorem State.nextInput_inputs : (s.nextInput).inputs = s.inputs.tail := rfl
@[simp] theorem State.nextInput_cycle : (s.nextInput).cycle = s.cycle + 1 := rfl

/-! ### What a register read sees -/

@[simp] theorem State.setI_getV (w : Word) (r : Reg) : (s.setI w).getV r = s.getV r := rfl
@[simp] theorem State.setDT_getV (b : Byte) (r : Reg) : (s.setDT b).getV r = s.getV r := rfl
@[simp] theorem State.setST_getV (b : Byte) (r : Reg) : (s.setST b).getV r = s.getV r := rfl
@[simp] theorem State.setMem_getV (m : Memory) (r : Reg) : (s.setMem m).getV r = s.getV r := rfl
@[simp] theorem State.setFb_getV (fb : Framebuffer) (r : Reg) : (s.setFb fb).getV r = s.getV r := rfl
@[simp] theorem State.complete_getV (w : Word) (r : Reg) : (s.complete w).getV r = s.getV r := rfl
@[simp] theorem State.advance_getV (r : Reg) : (s.advance).getV r = s.getV r := rfl
@[simp] theorem State.skipIf_getV (c : Bool) (r : Reg) : (s.skipIf c).getV r = s.getV r := rfl
@[simp] theorem State.awaitKey_getV (r : Reg) : (s.awaitKey).getV r = s.getV r := rfl
@[simp] theorem State.beginCycle_getV (r : Reg) : (s.beginCycle).getV r = s.getV r := rfl
@[simp] theorem State.unknownOpcode_getV (op : Word) (r : Reg) : (s.unknownOpcode op).getV r = s.getV r := rfl
@[simp] theorem State.tick_getV (r : Reg) : (s.tick).getV r = s.getV r := rfl
@[simp] theorem State.nextInput_getV (r : Reg) : (s.nextInput).getV r = s.getV r := rfl

/-! ### What an input read sees -/

@[simp] theorem State.setV_input (x : Reg) (b : Byte) : (s.setV x b).input = s.input := rfl
@[simp] theorem State.setFlag_input (b : Byte) : (s.setFlag b).input = s.input := rfl
@[simp] theorem State.setResultAndFlag_input (x : Reg) (a f : Byte) : (s.setResultAndFlag Config.params x a f).input = s.input := rfl
@[simp] theorem State.loadV_input (bs : List Byte) : (s.loadV bs).input = s.input := rfl
@[simp] theorem State.setI_input (w : Word) : (s.setI w).input = s.input := rfl
@[simp] theorem State.setDT_input (b : Byte) : (s.setDT b).input = s.input := rfl
@[simp] theorem State.setST_input (b : Byte) : (s.setST b).input = s.input := rfl
@[simp] theorem State.setMem_input (m : Memory) : (s.setMem m).input = s.input := rfl
@[simp] theorem State.setFb_input (fb : Framebuffer) : (s.setFb fb).input = s.input := rfl
@[simp] theorem State.complete_input (w : Word) : (s.complete w).input = s.input := rfl
@[simp] theorem State.advance_input : (s.advance).input = s.input := rfl
@[simp] theorem State.skipIf_input (c : Bool) : (s.skipIf c).input = s.input := rfl
@[simp] theorem State.awaitKey_input : (s.awaitKey).input = s.input := rfl
@[simp] theorem State.raise_input (f : FaultRecord) : (s.raise f).input = s.input := rfl
@[simp] theorem State.beginCycle_input : (s.beginCycle).input = s.input := rfl
@[simp] theorem State.unknownOpcode_input (op : Word) : (s.unknownOpcode op).input = s.input := rfl
@[simp] theorem State.tick_input : (s.tick).input = s.input := rfl

/-! ### The parameters of this hardware -/

@[simp] theorem params_decodeStrict : Config.params.decodeStrict = false := rfl
@[simp] theorem params_flagWriteOrder : Config.params.flagWriteOrder = .flagLast := rfl
@[simp] theorem params_shiftSource : Config.params.shiftSource = .vy := rfl
@[simp] theorem params_fx1eNoOverflow : Config.params.fx1eNoOverflow = .clear := rfl
@[simp] theorem params_fontDigitMask : Config.params.fontDigitMask = .none := rfl
@[simp] theorem params_keywaitTicks : Config.params.keywaitTicks = false := rfl
@[simp] theorem params_keywaitPick : Config.params.keywaitPick = .lowest := rfl

/-- The VF write of FX1E on this hardware (D7). -/
@[simp] theorem State.indexFlag_eq (c : Bool) : indexFlag Config.params c s = s.setFlag (flagOf c) := by
  cases c <;> rfl

/-! ### The end of a cycle, by its status -/

theorem State.endCycle_ticking (h : ticks Config.params s.statusOut = true) : s.endCycle = s.tick.nextInput := by
  simp [State.endCycle, h]

theorem State.endCycle_quiet (h : ticks Config.params s.statusOut = false) : s.endCycle = s.nextInput := by
  simp [State.endCycle, h]

end Sys2Proof.Machine
end

