-- ==== Sys2Proof/Laws/Registers.lean ====
section
/-! SUPPORT. What the register and stack operations do, as one lemma each. -/

namespace Sys2Proof.Machine

variable (s : State)

/-- A write to V[x] is seen at x and nowhere else. -/
theorem State.getV_setV (x r : Reg) (b : Byte) : (s.setV x b).getV r = if r = x then b else s.getV r := by
  unfold State.getV State.setV
  rw [Vector.get_eq_getElem, Vector.get_eq_getElem, Vector.getElem_set]
  exact if_congr (by rw [Fin.ext_iff]; exact eq_comm) rfl rfl

theorem State.getV_setFlag (r : Reg) (b : Byte) : (s.setFlag b).getV r = if r = 15 then b else s.getV r :=
  s.getV_setV 15 r b

/-- A result and a flag: VF holds the flag, whether or not x is VF (D5). -/
theorem State.getV_setResultAndFlag (x r : Reg) (a f : Byte) :
    (s.setResultAndFlag Config.params x a f).getV r = if r = 15 then f else if r = x then a else s.getV r := by
  simp [State.setResultAndFlag, State.getV_setFlag, State.getV_setV]

theorem State.setResultAndFlag_eq (x : Reg) (a f : Byte) :
    s.setResultAndFlag Config.params x a f = (s.setV x a).setFlag f := rfl

theorem loadFrom_getElem {bs : List Byte} : ∀ {k : Nat} {v : Vector Byte 16} (r : Nat) (hr : r < 16),
    (loadFrom k bs v)[r] = if k ≤ r ∧ r < k + bs.length then bs.getD (r - k) 0 else v[r] := by
  induction bs with
  | nil => intro k v r hr; simp only [List.length_nil]; rw [if_neg (by omega)]; rfl
  | cons b bs ih =>
    intro k v r hr
    rw [loadFrom, ih r hr, Vector.getElem_setIfInBounds]
    simp only [List.length_cons]
    by_cases hk : k = r
    · subst hk
      rw [if_neg (by omega), if_pos rfl, if_pos (by omega)]
      simp
    · by_cases h : k + 1 ≤ r ∧ r < k + 1 + bs.length
      · rw [if_pos h, if_pos (by omega), show r - k = r - (k + 1) + 1 by omega, List.getD_cons_succ]
      · rw [if_neg h, if_neg hk, if_neg (by omega)]

/-- The bytes land in V0, V1, …; the registers past them keep their values. -/
theorem State.getV_loadV (bs : List Byte) (r : Reg) :
    (s.loadV bs).getV r = if r.val < bs.length then bs.getD r.val 0 else s.getV r := by
  unfold State.getV State.loadV
  rw [Vector.get_eq_getElem, Vector.get_eq_getElem, loadFrom_getElem r.val r.isLt]
  simp

/-- V0 to VX, in order. -/
theorem State.regsUpTo_length (x : Reg) : (s.regsUpTo x).length = x.val + 1 := by
  simp [State.regsUpTo]

theorem State.regsUpTo_getD (x r : Reg) (h : r ≤ x) : (s.regsUpTo x).getD r.val 0 = s.getV r := by
  have h' : r.val < x.val + 1 := Nat.lt_succ_of_le h
  simp [State.regsUpTo, State.getV, List.getD_eq_getElem?_getD, h', Vector.get_eq_getElem]

/-- Everything a push can do. -/
theorem State.push_cases (w : Word) :
    (s.sp.val = 16 ∧ s.push w = none) ∨
    (∃ (h : s.sp.val < 16) (h' : s.sp.val + 1 < 17),
      s.push w = some { s with stack := s.stack.set s.sp.val w h, sp := ⟨s.sp.val + 1, h'⟩ }) := by
  by_cases h : s.sp.val < 16
  · exact .inr ⟨h, by omega, by simp [State.push, h]⟩
  · exact .inl ⟨by omega, by simp [State.push, h]⟩

/-- Everything a pop can do. -/
theorem State.pop_cases :
    (s.sp.val = 0 ∧ s.pop = none) ∨
    (∃ (k : Nat) (h : k < 16) (h' : k < 17), s.sp.val = k + 1 ∧ s.pop = some (s.stack[k], { s with sp := ⟨k, h'⟩ })) := by
  unfold State.pop
  split
  · rename_i h
    exact .inl ⟨by rw [h], rfl⟩
  · rename_i k hk h
    exact .inr ⟨k, by omega, by omega, by rw [h], rfl⟩

end Sys2Proof.Machine
end

