-- ==== Sys2Proof/Laws/Step.lean ====
section
/-! SUPPORT. What an instruction and a step can do: the inversion lemmas every invariant is derived from. -/

namespace Sys2Proof.Machine

/-- Every instruction answers a next state: no meaning of this model stops. -/
theorem exec_answers (i : Instr) (s : State) : ∃ t, exec i s = .next t := by
  cases i <;> exact ⟨_, rfl⟩

/-- Everything an instruction can do to the session: raise a fatal error, or leave the run status alone and report that
it executed or waits for a key. Either way the beep, the loader's status and the inputs are as before. -/
theorem exec_outcome {i : Instr} {s t : State} (h : exec i s = .next t) :
    ((∃ record, t = s.raise record) ∨
      (t.status = s.status ∧ (t.statusOut = .executed ∨ t.statusOut = .awaitingInput))) ∧
    t.beep = s.beep ∧ t.load = s.load ∧ t.inputs = s.inputs ∧ t.cycle = s.cycle := by
  have raised : ∀ record, t = s.raise record → ((∃ record, t = s.raise record) ∨
      (t.status = s.status ∧ (t.statusOut = .executed ∨ t.statusOut = .awaitingInput))) ∧
      t.beep = s.beep ∧ t.load = s.load ∧ t.inputs = s.inputs ∧ t.cycle = s.cycle := by
    rintro record rfl
    exact ⟨.inl ⟨record, rfl⟩, rfl, rfl, rfl, rfl⟩
  cases i with
  | call nnn =>
    simp only [exec, execCall, Host.Outcome.next.injEq] at h
    rcases s.push_cases (s.pc + 2) with ⟨-, h1⟩ | ⟨_, _, h1⟩ <;> rw [h1] at h
    · exact raised _ h.symm
    · subst h; exact ⟨.inr ⟨rfl, .inl rfl⟩, rfl, rfl, rfl, rfl⟩
  | ret x =>
    simp only [exec, execRet, Host.Outcome.next.injEq] at h
    rcases s.pop_cases with ⟨-, h1⟩ | ⟨_, _, _, -, h1⟩ <;> rw [h1] at h
    · exact raised _ h.symm
    · subst h; exact ⟨.inr ⟨rfl, .inl rfl⟩, rfl, rfl, rfl, rfl⟩
  | drw x y n =>
    simp only [exec, execDrw, Host.Outcome.next.injEq] at h
    split at h
    · exact raised _ h.symm
    · subst h; exact ⟨.inr ⟨rfl, .inl rfl⟩, rfl, rfl, rfl, rfl⟩
  | skp x =>
    simp only [exec, execSkp, Host.Outcome.next.injEq] at h
    split at h
    · exact raised _ h.symm
    · subst h; exact ⟨.inr ⟨rfl, .inl rfl⟩, rfl, rfl, rfl, rfl⟩
  | sknp x =>
    simp only [exec, execSknp, Host.Outcome.next.injEq] at h
    split at h
    · exact raised _ h.symm
    · subst h; exact ⟨.inr ⟨rfl, .inl rfl⟩, rfl, rfl, rfl, rfl⟩
  | ldB x =>
    simp only [exec, execLdB, Host.Outcome.next.injEq] at h
    split at h
    · exact raised _ h.symm
    · subst h; exact ⟨.inr ⟨rfl, .inl rfl⟩, rfl, rfl, rfl, rfl⟩
  | ldMemVx x =>
    simp only [exec, execLdMemVx, Host.Outcome.next.injEq] at h
    split at h
    · exact raised _ h.symm
    · subst h; exact ⟨.inr ⟨rfl, .inl rfl⟩, rfl, rfl, rfl, rfl⟩
  | ldVxMem x =>
    simp only [exec, execLdVxMem, Host.Outcome.next.injEq] at h
    split at h
    · exact raised _ h.symm
    · subst h; exact ⟨.inr ⟨rfl, .inl rfl⟩, rfl, rfl, rfl, rfl⟩
  | addI x =>
    simp only [exec, execAddI, indexFlag, Host.Outcome.next.injEq] at h
    subst h
    split <;> exact ⟨.inr ⟨rfl, .inl rfl⟩, rfl, rfl, rfl, rfl⟩
  | ldVxK x =>
    simp only [exec, execLdVxK, Host.Outcome.next.injEq] at h
    split at h <;> subst h
    · exact ⟨.inr ⟨rfl, .inr rfl⟩, rfl, rfl, rfl, rfl⟩
    · exact ⟨.inr ⟨rfl, .inl rfl⟩, rfl, rfl, rfl, rfl⟩
  | _ => cases h; exact ⟨.inr ⟨rfl, .inl rfl⟩, rfl, rfl, rfl, rfl⟩

/-- Everything a cycle of a running block can do. -/
theorem runCycle_cases (s : State) :
    (∃ record, s.beginCycle.fetch = .error record ∧ runCycle s = .next (s.beginCycle.raise record).endCycle) ∨
    (∃ op, s.beginCycle.fetch = .ok op ∧
      ((∃ w, decode op = .unknown w ∧ runCycle s = .next (s.beginCycle.unknownOpcode w).endCycle) ∨
       (∃ i t, decode op = .instr i ∧ exec i s.beginCycle = .next t ∧ runCycle s = .next t.endCycle))) := by
  cases hf : s.beginCycle.fetch with
  | error record => exact .inl ⟨record, rfl, by simp only [runCycle, hf]⟩
  | ok op =>
    refine .inr ⟨op, rfl, ?_⟩
    cases hd : decode op with
    | unknown w => exact .inl ⟨w, rfl, by simp only [runCycle, hf, hd]⟩
    | instr i =>
      obtain ⟨t, ht⟩ := exec_answers i s.beginCycle
      exact .inr ⟨i, t, rfl, ht, by simp only [runCycle, hf, hd, ht]⟩

/-- A loaded, running block runs a cycle. -/
theorem step_running {s : State} (hl : s.load = .loaded) (hr : s.status = .running) : step s = runCycle s := by
  simp only [step, hl, hr]

/-- A step that answers a next state ran a cycle of a loaded, running block. -/
theorem step_next {s u : State} (h : step s = .next u) :
    s.load = .loaded ∧ s.status = .running ∧ runCycle s = .next u := by
  unfold step at h
  cases hl : s.load with
  | awaitingImage => rw [hl] at h; cases h
  | tooLarge n => rw [hl] at h; cases h
  | loaded =>
    cases hr : s.status with
    | faulted record => rw [hl, hr] at h; cases h
    | running =>
      rw [hl, hr] at h
      exact ⟨rfl, rfl, h⟩

/-- The fetch reads memory at PC and PC + 1, or reports a PC past the end. -/
theorem State.fetch_cases (s : State) :
    (s.pc.toNat ≤ 0xFFE ∧ s.fetch = .ok (wordOfBytes (s.mem.read s.pc.toNat) (s.mem.read (s.pc.toNat + 1)))) ∨
    (s.pc.toNat > 0xFFE ∧ s.fetch = .error (.fetchOutOfRange s.pc)) := by
  unfold State.fetch
  by_cases h : s.pc.toNat + 1 > 0xFFF
  · exact .inr ⟨by omega, if_pos h⟩
  · exact .inl ⟨by omega, if_neg h⟩

/-- What the end of a cycle leaves alone, whether or not it ticks. -/
theorem State.endCycle_keeps (s : State) :
    s.endCycle.v = s.v ∧ s.endCycle.i = s.i ∧ s.endCycle.pc = s.pc ∧ s.endCycle.stack = s.stack ∧
    s.endCycle.sp = s.sp ∧ s.endCycle.mem = s.mem ∧ s.endCycle.fb = s.fb ∧ s.endCycle.dirty = s.dirty ∧
    s.endCycle.status = s.status ∧ s.endCycle.statusOut = s.statusOut ∧ s.endCycle.load = s.load := by
  unfold State.endCycle
  split <;> exact ⟨rfl, rfl, rfl, rfl, rfl, rfl, rfl, rfl, rfl, rfl, rfl⟩

end Sys2Proof.Machine
end

