-- ==== Sys2Proof/Tests/Slice0.lean ====
section
/-! SUPPORT. Small tests. Expected results come from spec/: the words from 30_encoding.md R47 and the vectors of
95_test_vectors.md L1 and L2, named in each comment. One step each, one or two fields of the result. -/

namespace Sys2Proof.Tests

open Sys2Proof Sys2Proof.Machine

/-- The reset state with the word under test at 0x200, no key pressed, rand8 = 0xAB (95_test_vectors.md, conventions). -/
def start (op : Word) : State :=
  { State.reset.withFetchWord 16 op.toNat with inputs := [⟨0, 0xAB, false⟩] }

/-- The same with V1 and V2 set. -/
def start12 (op : Word) (v1 v2 : Byte) : State := ((start op).setV 1 v1).setV 2 v2

/-- The same with these keys pressed. -/
def pressing (keys : BitVec 16) (s : State) : State := { s with inputs := [⟨keys, 0xAB, false⟩] }

/-- What one step leaves, none where it stops. -/
def after {α : Type} (s : State) (view : State → α) : Option α :=
  match step s with
  | .next t => some (view t)
  | .fault _ => none
  | .refused _ => none

/-- V[x] and VF. -/
def regAndFlag (x : Reg) (s : State) : Byte × Byte := (s.getV x, s.getV 15)

/-- Two cells of memory. -/
def bytesAt (a b : Nat) (s : State) : Byte × Byte := (s.mem.read a, s.mem.read b)

/-! ## WellFormed: an ill-formed term for each check -/

/-- The parameters with DECODE_STRICT = true. -/
def strict : Params := { Config.params with decodeStrict := true }

theorem test_wf_sys_is_not_cls : (Instr.sys 0x1E0).wellFormed = false := by decide
theorem test_wf_sys_is_not_ret : (Instr.sys 0x0EE).wellFormed = false := by decide
theorem test_wf_sys_plain : (Instr.sys 0x123).wellFormed = true := by decide
theorem test_wf_strict_sys : (Instr.sys 0x0E0).wellFormedWith strict = false := by decide
theorem test_wf_strict_sys_allows : (Instr.sys 0x1E0).wellFormedWith strict = true := by decide
theorem test_wf_strict_cls : (Instr.cls 1).wellFormedWith strict = false := by decide
theorem test_wf_strict_ret : (Instr.ret 5).wellFormedWith strict = false := by decide
theorem test_wf_strict_se_reg : (Instr.seReg 1 2 1).wellFormedWith strict = false := by decide
theorem test_wf_strict_sne_reg : (Instr.sneReg 1 2 1).wellFormedWith strict = false := by decide

/-! ## Decode: one word for each row, written out from 30_encoding.md R47 -/

theorem test_decode_sys : decode 0x0123 = .instr (.sys 0x123) := by decide
theorem test_decode_cls : decode 0x00E0 = .instr (.cls 0) := by decide
theorem test_decode_ret : decode 0x00EE = .instr (.ret 0) := by decide
theorem test_decode_jp : decode 0x1ABC = .instr (.jp 0xABC) := by decide
theorem test_decode_call : decode 0x2300 = .instr (.call 0x300) := by decide
theorem test_decode_se_imm : decode 0x3312 = .instr (.seImm 3 0x12) := by decide
theorem test_decode_sne_imm : decode 0x4313 = .instr (.sneImm 3 0x13) := by decide
theorem test_decode_se_reg : decode 0x5121 = .instr (.seReg 1 2 1) := by decide
theorem test_decode_ld_imm : decode 0x6005 = .instr (.ldImm 0 5) := by decide
theorem test_decode_add_imm : decode 0x7101 = .instr (.addImm 1 1) := by decide
theorem test_decode_ld_reg : decode 0x8120 = .instr (.ldReg 1 2) := by decide
theorem test_decode_or : decode 0x8121 = .instr (.orReg 1 2) := by decide
theorem test_decode_and : decode 0x8122 = .instr (.andReg 1 2) := by decide
theorem test_decode_xor : decode 0x8123 = .instr (.xorReg 1 2) := by decide
theorem test_decode_add_reg : decode 0x8124 = .instr (.addReg 1 2) := by decide
theorem test_decode_sub : decode 0x8125 = .instr (.sub 1 2) := by decide
theorem test_decode_shr : decode 0x8126 = .instr (.shr 1 2) := by decide
theorem test_decode_subn : decode 0x8127 = .instr (.subn 1 2) := by decide
theorem test_decode_shl : decode 0x812E = .instr (.shl 1 2) := by decide
theorem test_decode_sne_reg : decode 0x9120 = .instr (.sneReg 1 2 0) := by decide
theorem test_decode_ld_i : decode 0xA050 = .instr (.ldI 0x050) := by decide
theorem test_decode_jp_v0 : decode 0xB300 = .instr (.jpV0 0x300) := by decide
theorem test_decode_rnd : decode 0xC10F = .instr (.rnd 1 0x0F) := by decide
theorem test_decode_drw : decode 0xD015 = .instr (.drw 0 1 5) := by decide
theorem test_decode_skp : decode 0xE19E = .instr (.skp 1) := by decide
theorem test_decode_sknp : decode 0xE1A1 = .instr (.sknp 1) := by decide
theorem test_decode_ld_vx_dt : decode 0xF207 = .instr (.ldVxDt 2) := by decide
theorem test_decode_ld_vx_k : decode 0xF30A = .instr (.ldVxK 3) := by decide
theorem test_decode_ld_dt_vx : decode 0xF015 = .instr (.ldDtVx 0) := by decide
theorem test_decode_ld_st_vx : decode 0xF118 = .instr (.ldStVx 1) := by decide
theorem test_decode_add_i : decode 0xF11E = .instr (.addI 1) := by decide
theorem test_decode_ld_f : decode 0xF129 = .instr (.ldF 1) := by decide
theorem test_decode_ld_b : decode 0xF133 = .instr (.ldB 1) := by decide
theorem test_decode_ld_mem_vx : decode 0xF155 = .instr (.ldMemVx 1) := by decide
theorem test_decode_ld_vx_mem : decode 0xF265 = .instr (.ldVxMem 2) := by decide
/-- E2 and 30_encoding.md R49. -/
theorem test_decode_unknown : [0x800F, 0xE000, 0xEFFF, 0xF000, 0xFFFF, 0xF0FF].map decode
    = [.unknown 0x800F, .unknown 0xE000, .unknown 0xEFFF, .unknown 0xF000, .unknown 0xFFFF, .unknown 0xF0FF] := by
  decide
/-- E3, C5. -/
theorem test_decode_group0_ignores_x : (decode 0x01E0, decode 0x05EE) = (.instr (.cls 1), .instr (.ret 5)) := by decide
/-- E3, C5 and C14 under strict decode. -/
theorem test_decode_strict : (decodeWith strict 0x01E0, decodeWith strict 0x05EE, decodeWith strict 0x5121)
    = (.instr (.sys 0x1E0), .instr (.sys 0x5EE), .unknown 0x5121) := by decide
theorem test_decode_table_word : decodeTableWord 16 0x8124 = some (.addReg 1 2) := by decide
theorem test_decode_table_word_unknown : decodeTableWord 16 0x8008 = none := by decide

/-! ## Control flow (95_test_vectors.md L2-C) -/

/-- C1. -/
theorem test_sys : after (start 0x0123) (fun t => (t.pc, t.statusOut)) = some (0x202, .executed) := by decide
/-- C3. -/
theorem test_ret_underflow : after (start 0x00EE) (fun t => (t.pc, t.status))
    = some (0x200, .faulted (.stackUnderflow 0x200 0x00EE)) := by decide
/-- C4. -/
theorem test_ret : after { start 0x00EE with sp := 2, stack := (start 0).stack.set 1 0x30A } (fun t => (t.pc, t.sp))
    = some (0x30A, 1) := by decide
/-- L1-1. -/
theorem test_jp : after (start 0x1ABC) State.pc = some 0xABC := by decide
/-- C8, at 0x200 and not 0x204. -/
theorem test_call : after (start 0x2300) (fun t => (t.pc, t.sp, t.stack.get 0)) = some (0x300, 1, 0x202) := by decide
/-- C9. -/
theorem test_call_overflow : after { start 0x2300 with sp := 16 } (fun t => (t.pc, t.status))
    = some (0x200, .faulted (.stackOverflow 0x200 0x2300)) := by decide
/-- C11. -/
theorem test_se_imm : after ((start 0x3312).setV 3 0x12) State.pc = some 0x204 := by decide
theorem test_se_imm_not : after ((start 0x3313).setV 3 0x12) State.pc = some 0x202 := by decide
/-- C12. -/
theorem test_sne_imm : after ((start 0x4313).setV 3 0x12) State.pc = some 0x204 := by decide
theorem test_sne_imm_not : after ((start 0x4312).setV 3 0x12) State.pc = some 0x202 := by decide
/-- C14, the word with N ≠ 0. -/
theorem test_se_reg : after (start12 0x5121 7 7) State.pc = some 0x204 := by decide
/-- C15. -/
theorem test_se_reg_not : after (start12 0x5120 1 2) State.pc = some 0x202 := by decide
/-- C17. -/
theorem test_sne_reg : after (start12 0x9120 1 2) State.pc = some 0x204 := by decide
theorem test_sne_reg_same : after (start12 0x9110 1 2) State.pc = some 0x202 := by decide
/-- C18. -/
theorem test_jp_v0 : after ((start 0xB300).setV 0 0x10) State.pc = some 0x310 := by decide
/-- C19. -/
theorem test_jp_v0_top : after ((start 0xBFFF).setV 0 0xFF) State.pc = some 0x10FE := by decide
/-- C22: an odd PC is fetched like any other. -/
theorem test_odd_pc : after (({ State.reset with pc := 0x201 }).withFetchWord 16 0x6A7B) (fun t => (t.getV 10, t.pc))
    = some (0x7B, 0x203) := by decide

/-! ## Load and compute (L2-L) -/

/-- L2. -/
theorem test_ld_imm : after (start 0x6FAA) (State.getV · 15) = some 0xAA := by decide
/-- L3. -/
theorem test_add_imm : after (((start 0x7101).setV 1 0xFF).setV 15 0x55) (regAndFlag 1) = some (0x00, 0x55) := by decide
/-- L6. -/
theorem test_ld_reg : after (start12 0x8120 0 0x42) (State.getV · 1) = some 0x42 := by decide
/-- L7. -/
theorem test_or : after ((start12 0x8121 0xF0 0x3C).setV 15 7) (regAndFlag 1) = some (0xFC, 7) := by decide
theorem test_and : after ((start12 0x8122 0xF0 0x3C).setV 15 7) (regAndFlag 1) = some (0x30, 7) := by decide
theorem test_xor : after ((start12 0x8123 0xF0 0x3C).setV 15 7) (regAndFlag 1) = some (0xCC, 7) := by decide

/-! ## Arithmetic and shifts (L2-A) -/

/-- A1. -/
theorem test_add_carries : after (start12 0x8124 0xFF 0x01) (regAndFlag 1) = some (0x00, 1) := by decide
/-- A4: X = F, the flag lands last. -/
theorem test_add_to_vf : after (((start 0x8F14).setV 15 0x90).setV 1 0x80) (State.getV · 15) = some 1 := by decide
/-- A6. -/
theorem test_sub_borrows : after (start12 0x8125 3 5) (regAndFlag 1) = some (0xFE, 0) := by decide
/-- A8. -/
theorem test_sub_equal : after (start12 0x8125 7 7) (regAndFlag 1) = some (0, 1) := by decide
/-- A11. -/
theorem test_subn_borrows : after (start12 0x8127 5 3) (regAndFlag 1) = some (0xFE, 0) := by decide
/-- A12. -/
theorem test_subn : after (start12 0x8127 3 5) (regAndFlag 1) = some (0x02, 1) := by decide
/-- A14: the source is V2. -/
theorem test_shr : after (start12 0x8126 0xFF 0x05) (regAndFlag 1) = some (0x02, 1) := by decide
/-- A16. -/
theorem test_shr_to_vf : after (start12 0x8F26 0 0x02) (State.getV · 15) = some 0 := by decide
/-- A17. -/
theorem test_shl : after (start12 0x812E 0 0x81) (regAndFlag 1) = some (0x02, 1) := by decide
/-- A18. -/
theorem test_shl_no_bit_out : after (start12 0x812E 0 0x40) (regAndFlag 1) = some (0x80, 0) := by decide

/-! ## Random (L2-R) -/

/-- R1: rand8 = 0xAB. -/
theorem test_rnd : after (start 0xC10F) (State.getV · 1) = some 0x0B := by decide

/-! ## Index register and memory (L2-M) -/

/-- M1. -/
theorem test_ld_i : after (start 0xA050) State.i = some 0x050 := by decide
/-- M2. -/
theorem test_add_i : after ((start12 0xF11E 1 0).setI 0xFFF) (fun t => (t.i, t.getV 15)) = some (0x1000, 1) := by decide
/-- M4. -/
theorem test_add_i_clears : after (((start12 0xF11E 0x20 0).setI 0x100).setV 15 1) (fun t => (t.i, t.getV 15))
    = some (0x120, 0) := by decide
/-- M7. -/
theorem test_ld_f : after (start12 0xF129 0x0A 0) State.i = some 0x032 := by decide
/-- M8. -/
theorem test_ld_f_past_font : after (start12 0xF129 0xFF 0) State.i = some 0x4FB := by decide
/-- M10: 042 at 0x300. -/
theorem test_ld_b : after ((start12 0xF133 42 0).setI 0x300) (fun t => (bytesAt 0x300 0x301 t, t.mem.read 0x302))
    = some ((0, 4), 2) := by decide
/-- M12. -/
theorem test_ld_b_out_of_range : after ((start 0xF133).setI 0xFFE) State.status
    = some (.faulted (.outOfRange 0x200 0xF133 0x1000)) := by decide
/-- M13. -/
theorem test_ld_mem_vx : after (((start12 0xF155 2 0).setV 0 1).setI 0x300) (fun t => (bytesAt 0x300 0x301 t, t.i))
    = some ((1, 2), 0x302) := by decide
/-- M16. -/
theorem test_ld_mem_vx_out_of_range : after ((start 0xFF55).setI 0xFF1) State.status
    = some (.faulted (.outOfRange 0x200 0xFF55 0x1000)) := by decide
/-- M18: the bytes of glyph 0. -/
theorem test_ld_vx_mem : after (start 0xF465) (fun t => (t.v.toList.take 6, t.i))
    = some ([0xF0, 0x90, 0x90, 0x90, 0xF0, 0], 0x005) := by decide
/-- M20. -/
theorem test_ld_vx_mem_out_of_range : after ((start 0xF065).setI 0x1000) State.status
    = some (.faulted (.outOfRange 0x200 0xF065 0x1000)) := by decide

/-! ## Timers and keys (L2-T) -/

/-- T1: read before the tick. -/
theorem test_ld_vx_dt : after ((start 0xF207).setDT 3) (fun t => (t.getV 2, t.dt)) = some (3, 2) := by decide
/-- T2. -/
theorem test_ld_dt_vx : after ((start 0xF015).setV 0 5) State.dt = some 4 := by decide
/-- T4. -/
theorem test_ld_st_vx : after ((start 0xF118).setV 1 1) (fun t => (t.beep, t.st)) = some (true, 0) := by decide
/-- T6. -/
theorem test_ld_st_vx_silences : after ((start 0xF118).setST 5) (fun t => (t.beep, t.st)) = some (false, 0) := by decide
/-- T8: nothing ticks while waiting. -/
theorem test_ld_vx_k_waits : after (((start 0xF30A).setDT 5).setST 1) (fun t => (t.statusOut, t.pc, t.dt, t.beep))
    = some (.awaitingInput, 0x200, 5, false) := by decide
/-- T9: keys 7 and A. -/
theorem test_ld_vx_k_lowest : after (pressing 0x0480 (start 0xF30A)) (fun t => (t.getV 3, t.pc)) = some (7, 0x202) := by
  decide
/-- T12. -/
theorem test_skp : after (pressing 0x0020 (start12 0xE19E 5 0)) State.pc = some 0x204 := by decide
/-- T14. -/
theorem test_skp_out_of_range : after (start12 0xE19E 0x10 0) (fun t => (t.pc, t.status))
    = some (0x200, .faulted (.outOfRange 0x200 0xE19E 0x10)) := by decide
/-- T13. -/
theorem test_sknp : after (start12 0xE1A1 5 0) State.pc = some 0x204 := by decide
/-- T15. -/
theorem test_sknp_out_of_range : after (start12 0xE1A1 0xFF 0) State.status
    = some (.faulted (.outOfRange 0x200 0xE1A1 0xFF)) := by decide

/-! ## Display (L2-D) -/

/-- One pixel set. -/
def withPixel (x : Fin 64) (y : Fin 32) (s : State) : State := { s with fb := setPixel s.fb x y true }

/-- The pixels of a row, as a list of columns. -/
def litColumns (y : Fin 32) (s : State) : List (Fin 64) := (List.finRange 64).filter fun x => pixel s.fb x y

/-- D1. -/
theorem test_cls : after (withPixel 3 4 (start 0x00E0)) (fun t => (litColumns 4 t, t.dirty)) = some ([], true) := by decide
/-- D4: a row of eight at column 60 wraps. -/
theorem test_drw_wraps : after { start 0xD011 with v := (start 0).v.set 0 60, i := 0x300, mem := Memory.writeWith Config.params (start 0xD011).mem 0x300 0xFF }
    (litColumns 0) = some [0, 1, 2, 3, 60, 61, 62, 63] := by decide
/-- D7: glyph 1 of the font begins 0x20; here glyph 0's first row 0xF0 collides at (0, 0). -/
theorem test_drw_collides : after (withPixel 0 0 (start 0xD011)) (fun t => (litColumns 0 t, t.getV 15))
    = some ([1, 2, 3], 1) := by decide

/-! ## Cycle, errors, reset and loader (L2-E, L1-6) -/

/-- E1. -/
theorem test_unknown : after ((start 0x8008).setDT 2) (fun t => (t.pc, t.dt, t.statusOut))
    = some (0x202, 1, .unknownOpcode 0x200 0x8008) := by decide
/-- E4. -/
theorem test_fetch_out_of_range : after { start 0 with pc := 0xFFF } (fun t => (t.pc, t.status))
    = some (0xFFF, .faulted (.fetchOutOfRange 0xFFF)) := by decide
/-- E5. -/
theorem test_faulted_has_no_step :
    (match step { start 0 with status := .faulted (.fetchOutOfRange 0xFFF) } with
      | .fault r => some r | .next _ => none | .refused _ => none) = some Fault.faultedStatus := by decide
/-- U10. -/
theorem test_not_loaded :
    (match step State.reset with | .refused r => some r | .next _ => none | .fault _ => none)
      = some Refusal.notLoaded := by decide
/-- E6: what is not plain at a glance. -/
theorem test_reset_font : (bytesAt 0x000 0x04F State.reset, bytesAt 0x050 0x200 State.reset) = ((0xF0, 0x80), (0, 0)) := by
  decide
/-- E9: the clear goes first. -/
theorem test_dirty_clear_first : after { start 0xD010 with dirty := true, inputs := [⟨0, 0, true⟩] } State.dirty
    = some true := by decide
theorem test_dirty_cleared : after { start 0x6001 with dirty := true, inputs := [⟨0, 0, true⟩] } State.dirty
    = some false := by decide
/-- D16: FONT is a parameter of memory. -/
theorem test_font_is_a_parameter :
    Memory.readWith { Config.params with font := [0x12, 0x34] } [] 0x001 = 0x34 := by decide
/-- R60: a second image before the first cycle. -/
theorem test_load_again :
    (match hostLoad [0x12] { State.reset with load := .loaded } with
      | .next t => some (t.mem.read 0x200, t.load) | .fault _ => none | .refused _ => none) = some (0x12, .loaded) := by
  decide
/-- P3's image, its first word: the loader copies from 0x200. -/
theorem test_load :
    (match hostLoad [0x60, 0x00] State.reset with
      | .next t => some (bytesAt 0x200 0x201 t, t.load) | .fault _ => none | .refused _ => none)
      = some ((0x60, 0x00), .loaded) := by decide

/-! ## Witnesses: for each statement with hypotheses, a state and operands that meet them together, each clause at a
boundary value of its range. `witness_<Name>` belongs to Obligations.<Name>. -/

open Sys2Proof.Safety

/-- The state an instruction answers in, none where it stops. -/
def afterExec (i : Instr) (s : State) : Option State :=
  match exec i s with
  | .next t => some t
  | .fault _ => none
  | .refused _ => none

theorem witness_DecodeOfEncodeIsTheInstruction :
    (Instr.sys 0x0E1).wellFormedWith Config.params = true ∧ (Instr.cls 0).wellFormedWith strict = true := by decide

theorem witness_EncodeOfDecodeIsTheWord : decodeWith Config.params 0x8124 = .instr (.addReg 1 2) ∧
    decodeWith strict 0x00EE = .instr (.ret 0) := by decide

theorem witness_UnknownWordsAreExactlyTheListed : decode 0x8FFF = .unknown 0x8FFF ∧ decode 0xE09D = .unknown 0xE09D ∧
    decode 0xF066 = .unknown 0xF066 ∧ decodeWith strict 0x9001 = .unknown 0x9001 := by decide

theorem witness_SysDoesNothing :
    [0x000, 0x0DF, 0x0E1, 0x0ED, 0x0EF, 0xFFF].all
      (fun nnn : BitVec 12 => nnn.toNat % 256 ≠ 0xE0 ∧ nnn.toNat % 256 ≠ 0xEE) = true := by decide

theorem witness_JumpSetsPcToTheAddress : (0xFFF : BitVec 12).toNat = 0xFFF := by decide

theorem witness_CallPushesTheNextAddress :
    { start 0 with sp := 15 }.sp.val < 16 ∧ { start 0 with sp := 16 }.sp.val = 16 := by decide

theorem witness_ReturnPopsThePc : { start 0 with sp := 1 }.sp.val = (0 : Fin 16).val + 1 ∧
    { start 0 with sp := 16 }.sp.val = (15 : Fin 16).val + 1 ∧ (start 0).sp.val = 0 := by decide

theorem witness_ReturnAfterCallResumes :
    { start 0 with sp := 15 }.sp.val < 16 ∧ ∃ t, exec (.call 0x300) { start 0 with sp := 15 } = .next t :=
  ⟨by decide, _, rfl⟩

/-- Targets 0xFFE and 0xFFF, and the largest. -/
theorem witness_JumpWithOffsetAddsV0 :
    ((afterExec (.jpV0 0xFFE) (start 0)).map fun t => decide (t.pc.toNat > 0xFFE)) = some false ∧
    ((afterExec (.jpV0 0xFFF) (start 0)).map fun t => decide (t.pc.toNat > 0xFFE)) = some true ∧
    ((afterExec (.jpV0 0xFFF) ((start 0).setV 0 0xFF)).map fun t => decide (t.pc.toNat > 0xFFE)) = some true := by decide

theorem witness_ShiftsMoveOneBitFromVy : (14 : Reg) ≠ 15 ∧ (0 : Nat) < 7 ∧ (6 : Nat) < 7 ∧ (7 : Nat) < 8 := by decide

theorem witness_OnlySevenInstructionsWriteAFlag :
    (afterExec (.addReg 15 1) (start 0)).map State.status = some .running ∧ writesFlag (.addReg 15 1) = true ∧
    (afterExec (.addImm 14 1) (start 0)).map State.status = some .running ∧
    writesFlag (.addImm 14 1) = false ∧ mayWriteReg (.addImm 14 1) 15 = false := by decide

theorem witness_OnlyRandomReadsTheRandomByte :
    (∀ x nn, Instr.skp 0 ≠ .rnd x nn) ∧ (pressing 1 (start 0)).inputs = [⟨1, 0xAB, false⟩] ∧
    (afterExec (.skp 0) (pressing 1 (start 0))).map State.status = some .running :=
  ⟨nofun, by decide, by decide⟩

theorem witness_DecimalDigitsAreStored : MemoryInv ((start 0).setI 0xFFD) ∧ ((start 0).setI 0xFFD).i.toNat + 2 < 4096 ∧
    ((start 0).setI 0xFFE).i.toNat + 2 ≥ 4096 := by unfold MemoryInv; decide

theorem witness_RegisterDumpStoresInOrder : MemoryInv ((start 0).setI 0xFF0) ∧
    ((start 0).setI 0xFF0).i.toNat + (15 : Reg).val < 4096 ∧ ((start 0).setI 0xFFF).i.toNat + (0 : Reg).val < 4096 ∧
    ((start 0).setI 0xFF1).i.toNat + (15 : Reg).val ≥ 4096 := by unfold MemoryInv; decide

theorem witness_RegisterLoadReadsInOrder : ((start 0).setI 0xFF0).i.toNat + (15 : Reg).val < 4096 ∧
    ((start 0).setI 0xFF1).i.toNat + (15 : Reg).val ≥ 4096 := by decide

theorem witness_DumpThenLoadRestoresTheRegisters : MemoryInv ((start 0).setI 0xFF0) ∧
    (afterExec (.ldMemVx 15) ((start 0).setI 0xFF0)).map State.status = some .running := by unfold MemoryInv; decide

/-- A dump of V0 and V1, then a dump of V0 at the end of memory, over the next instruction. -/
theorem witness_FetchSeesTheWordJustStored : MemoryInv ((start 0).setI 0x202) ∧
    ([0x201, 0x202, 0x203].all fun i => (afterExec (.ldMemVx 1) ((start 0).setI i)).map State.status = some .running) = true ∧
    ((start 0).pc.toNat + 2 = ((start 0).setI 0x202).i.toNat + (0 : Reg).val ∧ (1 : Reg).val = (0 : Reg).val + 1 ∧
      (1 : Reg) ≤ 1) ∧
    (start 0).pc.toNat + 3 = ((start 0).setI 0x203).i.toNat ∧
    (start 0).pc.toNat + 2 = ((start 0).setI 0x201).i.toNat + (1 : Reg).val ∧ (start 0).pc.toNat + 3 ≤ 0xFFF ∧
    { start 0 with pc := 0xFFC, i := 0xFFE }.pc.toNat + 2 = { start 0 with pc := 0xFFC, i := 0xFFE }.i.toNat + (0 : Reg).val ∧
    { start 0 with pc := 0xFFC, i := 0xFFE }.pc.toNat + 3 ≤ 0xFFF := by unfold MemoryInv; decide

/-- The four overlaps of the digits with the next instruction at 0x202. -/
theorem witness_FetchSeesTheDigitsJustStored : MemoryInv ((start 0).setI 0x202) ∧
    ([0x200, 0x201, 0x202, 0x203].all fun i => (afterExec (.ldB 1) ((start 0).setI i)).map State.status = some .running)
      = true ∧
    (start 0).pc.toNat + 2 = ((start 0).setI 0x202).i.toNat ∧ (start 0).pc.toNat + 2 = ((start 0).setI 0x201).i.toNat + 1 ∧
    (start 0).pc.toNat + 3 = ((start 0).setI 0x203).i.toNat ∧
    (start 0).pc.toNat + 2 = ((start 0).setI 0x200).i.toNat + 2 ∧ (start 0).pc.toNat + 3 ≤ 0xFFF := by
  unfold MemoryInv; decide

theorem witness_TimerMovesAndTheirTick : (start 0).beep = false := by decide

theorem witness_TimerReadsOneLessInTheNextCycle : ∃ t, exec (.ldDtVx 0) (start 0) = .next t := ⟨_, rfl⟩

/-- No key; keys 0, 7 and 15 as the lowest. -/
theorem witness_KeyWaitTakesTheLowestKey : (∀ k, k < 16 → (start 0).input.keys.getLsbD k = false) ∧
    (pressing 0xFFFF (start 0)).input.keys.getLsbD 0 = true ∧
    ((pressing 0x0480 (start 0)).input.keys.getLsbD 7 = true ∧
      ∀ j, j < 7 → (pressing 0x0480 (start 0)).input.keys.getLsbD j = false) ∧
    ((pressing 0x8000 (start 0)).input.keys.getLsbD 15 = true ∧
      ∀ j, j < 15 → (pressing 0x8000 (start 0)).input.keys.getLsbD j = false) := by decide

theorem witness_SkipOnAKey : (((start 0).setV 1 15).getV 1).toNat < 16 ∧ (((start 0).setV 1 16).getV 1).toNat ≥ 16 := by
  decide

theorem witness_OnlyKeyInstructionsReadTheKeys :
    (∀ x, Instr.rnd 1 0x0F ≠ .ldVxK x ∧ Instr.rnd 1 0x0F ≠ .skp x ∧ Instr.rnd 1 0x0F ≠ .sknp x) ∧
    (start 0).inputs = [⟨0, 0xAB, false⟩] ∧ (afterExec (.rnd 1 0x0F) (start 0)).map State.status = some .running :=
  ⟨fun _ => ⟨nofun, nofun, nofun⟩, by decide, by decide⟩

/-- N = 0 with I past memory; the last row at 0xFFF; the last row at 0x1000. -/
theorem witness_DrawInvertsExactlyTheSprite : (0 : BitVec 4).toNat = 0 ∧
    ((start 0).setI 0xFF1).i.toNat + (15 : BitVec 4).toNat ≤ 4096 ∧
    (15 : BitVec 4).toNat ≠ 0 ∧ ((start 0).setI 0xFF2).i.toNat + (15 : BitVec 4).toNat > 4096 := by decide

theorem witness_DrawingTwiceRestoresEveryPixel :
    (afterExec (.drw 0 1 5) (start 0)).map (fun t => (t.status, (t.getV 0).toNat % 64, (t.getV 1).toNat % 32))
      = some (.running, ((start 0).getV 0).toNat % 64, ((start 0).getV 1).toNat % 32) := by decide

/-- The hypotheses, in a state in which the statement fails (entry 20): every pixel under the sprite was 1. -/
theorem witness_SecondDrawCollidesWheneverTheSpriteHasABit :
    let s := { start 0 with fb := Vector.replicate 32 (Vector.replicate 64 true) }
    ((afterExec (.drw 0 1 1) s).bind fun t => (afterExec (.drw 0 1 1) t.endCycle).map fun u => (t.status, u.getV 15))
      = some (.running, 0) ∧ spriteOf 0 1 1 s 0 0 = true := by decide

theorem witness_StepRunsTheDecodedInstruction : Runs (start 0x6005) (.ldImm 0 5) := by
  unfold Runs Ready; decide

/-- An instruction that executes, one that waits and one that is fatal. -/
theorem witness_TickFollowsEveryExecutedInstruction :
    Runs (start 0x6005) (.ldImm 0 5) ∧ Runs (start 0xF30A) (.ldVxK 3) ∧ Runs (start 0x00EE) (.ret 0) ∧
    (afterExec (.ldImm 0 5) (start 0x6005).beginCycle).map State.statusOut = some .executed ∧
    (afterExec (.ldVxK 3) (start 0xF30A).beginCycle).map State.statusOut = some .awaitingInput ∧
    (afterExec (.ret 0) (start 0x00EE).beginCycle).map State.statusOut = some (.fatal (.stackUnderflow 0x200 0x00EE)) := by
  unfold Runs Ready; decide

/-- A state whose next fetch is at the last address a fetch can start from, 0xFFE. -/
def startAtTheEnd (op : Word) : State := { start 0 with pc := 0xFFE }.withFetchWord 16 op.toNat

theorem witness_UnknownWordIsAReportedNoOp : Ready (startAtTheEnd 0x8008) ∧ (startAtTheEnd 0x8008).pc.toNat + 1 ≤ 0xFFF ∧
    decode (wordAtPc (startAtTheEnd 0x8008)) = .unknown 0x8008 := by unfold Ready; decide

theorem witness_FetchIsBigEndianOrFatal : { start 0 with pc := 0xFFE }.pc.toNat + 1 ≤ 0xFFF ∧
    Ready { start 0 with pc := 0xFFF } ∧ { start 0 with pc := 0xFFF }.pc.toNat + 1 > 0xFFF := by unfold Ready; decide

theorem witness_KeyWaitCycleChangesNothing : Runs (start 0xF30A) (.ldVxK 3) ∧
    ∀ k, k < 16 → (start 0xF30A).input.keys.getLsbD k = false := by unfold Runs Ready; decide

theorem witness_CyclesNeedALoadedRunningBlock : State.reset.load ≠ .loaded ∧ (start 0).load = .loaded ∧
    { start 0 with status := .faulted (.fetchOutOfRange 0xFFF) }.status = .faulted (.fetchOutOfRange 0xFFF) ∧
    Ready (start 0) := by unfold Ready; decide

theorem witness_FatalErrorsAreExactlyTheListed : (∃ u, step (start 0x6005) = .next u) ∧ fatalCause (start 0x6005) = none ∧
    (∃ u, step (start 0x00EE) = .next u) ∧ fatalCause (start 0x00EE) = some (.stackUnderflow 0x200 0x00EE) :=
  ⟨⟨_, rfl⟩, by decide, ⟨_, rfl⟩, by decide⟩

/-- With a word fetched, with none, and with an address. -/
theorem witness_FatalCycleIsReportedAndTerminal :
    after (start 0x00EE) State.status = some (.faulted (.stackUnderflow 0x200 0x00EE)) ∧ (start 0x00EE).pc.toNat + 1 ≤ 0xFFF ∧
    after { start 0 with pc := 0xFFF } State.status = some (.faulted (.fetchOutOfRange 0xFFF)) ∧
    after ((start 0xF133).setI 0xFFE) State.status = some (.faulted (.outOfRange 0x200 0xF133 0x1000)) := by decide

theorem witness_DirtyAfterACycle :
    after (start 0xD010) State.status = some .running ∧ decode (wordAtPc (start 0xD010)) = .instr (.drw 0 1 0) ∧
    writesDisplay (.drw 0 1 0) = true ∧
    after (start 0x6005) State.status = some .running ∧ decode (wordAtPc (start 0x6005)) = .instr (.ldImm 0 5) ∧
    writesDisplay (.ldImm 0 5) = false := by decide

theorem witness_OnlyTheNamedInstructionsWrite :
    (afterExec (.ldB 1) ((start 0).setI 0xFFD)).map State.status = some .running ∧ mayWriteReg (.ldB 1) 1 = false ∧
    writesIndex (.ldB 1) = false ∧ writesStack (.ldB 1) = false ∧ writesMemory (.jp 0) = false ∧
    writesDisplay (.ldB 1) = false ∧ (afterExec (.jp 0) (start 0)).map State.status = some .running := by decide

theorem witness_HostOnlyStateIsNeverRead : (afterExec (.ldVxDt 1) (start 0)).map State.status = some .running := by decide

theorem witness_StepKeepsMemoryCanonical : MemoryInv ((start 0xF155).setI 0x300) ∧
    ∃ u, step ((start 0xF155).setI 0x300) = .next u := ⟨by unfold MemoryInv; decide, _, rfl⟩

theorem witness_StepKeepsThePcInBounds : PcInv (startAtTheEnd 0x2FFF) ∧ (∃ u, step (startAtTheEnd 0x2FFF) = .next u) ∧
    after (startAtTheEnd 0x2FFF) State.status = some .running :=
  ⟨fun _ => by decide, ⟨_, rfl⟩, by decide⟩

/-- Images of 1, 3584, 3585 and 0 bytes, after reset and after a load. -/
theorem witness_LoaderCopiesTheImageOrNeverStarts : State.reset.statusOut = .noCycle ∧
    (∀ n, State.reset.load ≠ .tooLarge n) ∧ (start 0).statusOut = .noCycle ∧ (∀ n, (start 0).load ≠ .tooLarge n) ∧
    MemoryInv State.reset ∧ 0 < ([0x60] : List Byte).length ∧ (List.replicate 3584 (0 : Byte)).length ≤ 3584 ∧
    (List.replicate 3585 (0 : Byte)).length > 3584 ∧ ([] : List Byte).length = 0 := by
  refine ⟨rfl, nofun, rfl, nofun, rfl, by decide, ?_, ?_, rfl⟩
  · rw [List.length_replicate]
  · rw [List.length_replicate]; decide

theorem witness_HostLoadsOnlyBeforeTheFirstCycle : ∃ u, step (start 0x6005) = .next u := ⟨_, rfl⟩

/-- Entry 5: with free inputs too, the key wait runs as the first instruction after reset. -/
theorem test_first_instruction_runs : ∃ u, step (State.reset.withFetchWord 16 0xF30A) = .next u := ⟨_, rfl⟩

end Sys2Proof.Tests
end

section
/-! Proofs of the control flow statements (41_control_flow.md), and the rules they share: what completing at a target and
a skip leave unchanged, and the fetch of a cycle whose pc lies past memory. -/

namespace Sys2Proof.ControlFlow

open Sys2Proof.Machine Sys2Proof.Safety

/-! ### Decoding the words of the jump and of the skips on a literal -/

theorem decode_word_jp (nnn : BitVec 12) : decode (wordNNN 0x1 nnn) = .instr (.jp nnn) := by
  obtain ⟨hg, hnnn⟩ := fields_wordNNN (g := 0x1) (by decide) nnn
  rw [decode, decodeWith_group1 hg, hnnn]

theorem decode_word_seImm (x : Reg) (nn : Byte) : decode (wordXNN 0x3 x nn) = .instr (.seImm x nn) := by
  obtain ⟨hg, hx, hnn⟩ := fields_wordXNN (g := 0x3) (by decide) x nn
  rw [decode, decodeWith_group3 hg, hx, hnn]

theorem decode_word_sneImm (x : Reg) (nn : Byte) : decode (wordXNN 0x4 x nn) = .instr (.sneImm x nn) := by
  obtain ⟨hg, hx, hnn⟩ := fields_wordXNN (g := 0x4) (by decide) x nn
  rw [decode, decodeWith_group4 hg, hx, hnn]

/-! ### The instructions as state updates -/

theorem exec_jp (nnn : BitVec 12) (s : State) : exec (.jp nnn) s = .next (s.complete (addressLiteral nnn)) := rfl

theorem exec_seImm (x : Reg) (nn : Byte) (s : State) : exec (.seImm x nn) s = .next (s.skipIf (s.getV x == nn)) := rfl

theorem exec_sneImm (x : Reg) (nn : Byte) (s : State) : exec (.sneImm x nn) s = .next (s.skipIf (s.getV x != nn)) := rfl

/-! ### Completing at a target, and skipping -/

theorem completes_complete (target : Word) (s : State) : Completes target s (s.complete target) :=
  ⟨rfl, rfl, rfl, rfl, rfl, rfl, rfl⟩

theorem keepsAllButPc_complete (target : Word) (s : State) : KeepsAllButPc s (s.complete target) :=
  ⟨fun _ => rfl, rfl, ⟨rfl, rfl⟩, ⟨rfl, rfl⟩, fun _ => rfl, rfl, rfl⟩

theorem skipIf_eq_complete (taken : Bool) (s : State) :
    s.skipIf taken = s.complete (if taken then s.pc + 4 else s.pc + 2) := rfl

/-- A skip decided by a test of the proposition `P` (40_cycle.md R53). -/
theorem completes_skipIf {P : Prop} [Decidable P] {taken : Bool} (h : taken = true ↔ P) (s : State) :
    Completes (if P then s.pc + 4 else s.pc + 2) s (s.skipIf taken) := by
  rw [skipIf_eq_complete, if_congr h rfl rfl]
  exact completes_complete _ s

theorem keepsAllButPc_skipIf (taken : Bool) (s : State) : KeepsAllButPc s (s.skipIf taken) :=
  keepsAllButPc_complete _ s

/-! ### Where a jump leads -/

theorem addressLiteral_toNat (nnn : BitVec 12) : (addressLiteral nnn).toNat = nnn.toNat := by
  have := nnn.isLt
  rw [addressLiteral, BitVec.toNat_ofNat]
  omega

/-- The cycle after one that left the pc past memory cannot fetch (20_memory.md R30). -/
theorem fetch_endCycle_of_pc_gt {t : State} (h : t.pc.toNat > 0xFFE) :
    t.endCycle.fetch = .error (.fetchOutOfRange t.pc) := by
  obtain ⟨-, -, hpc, -⟩ := t.endCycle_keeps
  rcases t.endCycle.fetch_cases with ⟨hle, -⟩ | ⟨-, herr⟩
  · rw [hpc] at hle
    omega
  · rw [herr, hpc]

/-! ### The statements -/

/-- Settles O7: a jump completes at its literal, which zero extension keeps; at 0xFFF no second byte is left to fetch. -/
theorem jumpSetsPcToTheAddress : Obligations.JumpSetsPcToTheAddress := by
  intro nnn s
  refine ⟨decode_word_jp nnn, _, exec_jp nnn s, completes_complete _ s, keepsAllButPc_complete _ s,
    addressLiteral_toNat nnn, fun htop => ?_⟩
  have hpc : addressLiteral nnn = 0xFFF := BitVec.eq_of_toNat_eq ((addressLiteral_toNat nnn).trans htop)
  rw [hpc]
  exact fetch_endCycle_of_pc_gt (t := s.complete 0xFFF) (show (0xFFF : Word).toNat > 0xFFE by decide)

/-- Settles O11: both skips complete at the target their test chooses, and the boolean tests say what they should. -/
theorem skipOnALiteral : Obligations.SkipOnALiteral := by
  intro x nn s
  refine ⟨⟨decode_word_seImm x nn, decode_word_sneImm x nn⟩, ⟨_, exec_seImm x nn s, ?_, keepsAllButPc_skipIf _ s⟩,
    _, exec_sneImm x nn s, ?_, keepsAllButPc_skipIf _ s⟩
  · exact completes_skipIf beq_iff_eq s
  · exact completes_skipIf bne_iff_ne s

end Sys2Proof.ControlFlow
end

section
/-! Proofs of the load and compute statements (42_load_compute.md), and the rule they share: an instruction that writes
one register and goes on to the next word. -/

namespace Sys2Proof.LoadCompute

open Sys2Proof.Machine Sys2Proof.Safety

/-! ### Decoding the words of the loads and of the literal addition -/

theorem decode_word_ldImm (x : Reg) (nn : Byte) : decode (wordXNN 0x6 x nn) = .instr (.ldImm x nn) := by
  obtain ⟨hg, hx, hnn⟩ := fields_wordXNN (g := 0x6) (by decide) x nn
  rw [decode, decodeWith_group6 hg, hx, hnn]

theorem decode_word_addImm (x : Reg) (nn : Byte) : decode (wordXNN 0x7 x nn) = .instr (.addImm x nn) := by
  obtain ⟨hg, hx, hnn⟩ := fields_wordXNN (g := 0x7) (by decide) x nn
  rw [decode, decodeWith_group7 hg, hx, hnn]

theorem decodeGroup8_of_fieldN_zero {op : Word} (h : fieldN op = 0x0) :
    decodeGroup8 op = .instr (.ldReg (fieldX op) (fieldY op)) := by
  rw [decodeGroup8, h]
  rfl

theorem decode_word_ldReg (x y : Reg) : decode (wordXYN 0x8 x y 0x0) = .instr (.ldReg x y) := by
  obtain ⟨hg, hx, hy, hn⟩ := fields_wordXYN (g := 0x8) (by decide) x y 0x0
  rw [decode, decodeWith_group8 hg, decodeGroup8_of_fieldN_zero hn, hx, hy]

/-! ### The instructions as state updates -/

theorem exec_ldImm (x : Reg) (nn : Byte) (s : State) : exec (.ldImm x nn) s = .next (s.setV x nn).advance := rfl

theorem exec_ldReg (x y : Reg) (s : State) : exec (.ldReg x y) s = .next (s.setV x (s.getV y)).advance := rfl

theorem exec_addImm (x : Reg) (nn : Byte) (s : State) :
    exec (.addImm x nn) s = .next (s.setV x (sumByte (s.getV x) nn)).advance := rfl

/-! ### Writing one register and advancing -/

theorem completes_setV_advance (x : Reg) (b : Byte) (s : State) : Completes (s.pc + 2) s (s.setV x b).advance :=
  ControlFlow.completes_complete (s.pc + 2) (s.setV x b)

theorem writesReg_setV_advance (x : Reg) (b : Byte) (s : State) : WritesReg x b s (s.setV x b).advance := fun r => by
  rw [State.advance_getV, State.getV_setV]

theorem keepsAllButRegs_setV_advance (x : Reg) (b : Byte) (s : State) : KeepsAllButRegs s (s.setV x b).advance :=
  (ControlFlow.keepsAllButPc_complete (s.pc + 2) (s.setV x b)).2

/-! ### What a register write leaves to read -/

theorem getV_of_writesReg {x : Reg} {b : Byte} {s t : State} (h : WritesReg x b s t) : t.getV x = b :=
  (h x).trans (if_pos rfl)

theorem getV_of_writesReg_of_ne {x r : Reg} {b : Byte} {s t : State} (h : WritesReg x b s t) (hr : r ≠ x) :
    t.getV r = s.getV r :=
  (h r).trans (if_neg hr)

theorem sumByte_toNat (a b : Byte) : (sumByte a b).toNat = (a.toNat + b.toNat) % 256 := by
  rw [sumByte, BitVec.toNat_ofNat]

/-! ### The statements -/

/-- Settles O14: both loads write their operand to V[X] and advance. -/
theorem loadLiteralAndCopy : Obligations.LoadLiteralAndCopy := by
  intro x y nn s
  have hload (b : Byte) : Completes (s.pc + 2) s (s.setV x b).advance ∧ WritesReg x b s (s.setV x b).advance ∧
      KeepsAllButRegs s (s.setV x b).advance :=
    ⟨completes_setV_advance x b s, writesReg_setV_advance x b s, keepsAllButRegs_setV_advance x b s⟩
  exact ⟨⟨decode_word_ldImm x nn, decode_word_ldReg x y⟩, ⟨_, exec_ldImm x nn s, hload nn⟩,
    _, exec_ldReg x y s, hload (s.getV y)⟩

/-- Settles O15: the addition writes V[X] alone, and narrowing the sum to a byte takes it mod 256. -/
theorem addLiteralTouchesNoFlag : Obligations.AddLiteralTouchesNoFlag := by
  intro x nn s
  have hwrites := writesReg_setV_advance x (sumByte (s.getV x) nn) s
  refine ⟨decode_word_addImm x nn, _, exec_addImm x nn s, completes_setV_advance x _ s,
    keepsAllButRegs_setV_advance x _ s, ?_, fun r hr => getV_of_writesReg_of_ne hwrites hr⟩
  rw [getV_of_writesReg hwrites, sumByte_toNat]

end Sys2Proof.LoadCompute
end

section
/-! Proofs of the index register and memory statements (45_memory_index.md), and the rule they share: an instruction that
writes I and goes on to the next word. -/

namespace Sys2Proof.IndexMemory

open Sys2Proof.Machine Sys2Proof.Safety

/-! ### Decoding and executing the load of a literal -/

theorem decode_word_ldI (nnn : BitVec 12) : decode (wordNNN 0xA nnn) = .instr (.ldI nnn) := by
  obtain ⟨hg, hnnn⟩ := fields_wordNNN (g := 0xA) (by decide) nnn
  rw [decode, decodeWith_groupA hg, hnnn]

theorem exec_ldI (nnn : BitVec 12) (s : State) : exec (.ldI nnn) s = .next (s.setI (addressLiteral nnn)).advance := rfl

/-! ### Writing the index register and advancing -/

theorem completes_setI_advance (w : Word) (s : State) : Completes (s.pc + 2) s (s.setI w).advance :=
  ControlFlow.completes_complete (s.pc + 2) (s.setI w)

theorem keepsRegs_setI_advance (w : Word) (s : State) : KeepsRegs s (s.setI w).advance := fun r => by
  rw [State.advance_getV, State.setI_getV]

/-- What writing I leaves unchanged besides the general registers. -/
theorem keepsRest_setI_advance (w : Word) (s : State) :
    KeepsStack s (s.setI w).advance ∧ KeepsTimers s (s.setI w).advance ∧ KeepsMemory s (s.setI w).advance ∧
      KeepsDisplay s (s.setI w).advance :=
  (ControlFlow.keepsAllButPc_complete (s.pc + 2) (s.setI w)).2.2

/-! ### The statement -/

/-- Settles O23: I receives the zero-extended literal, which keeps its value and its bound of 12 bits. -/
theorem loadIndexSetsI : Obligations.LoadIndexSetsI := by
  intro nnn s
  have hi : (s.setI (addressLiteral nnn)).advance.i.toNat = nnn.toNat := by
    rw [State.advance_i, State.setI_i, ControlFlow.addressLiteral_toNat]
  have hbound : nnn.toNat ≤ 0xFFF := Nat.le_of_lt_succ nnn.isLt
  exact ⟨decode_word_ldI nnn, _, exec_ldI nnn s, completes_setI_advance _ s, hi, hi.le.trans hbound,
    keepsRegs_setI_advance _ s, keepsRest_setI_advance _ s⟩

end Sys2Proof.IndexMemory
end

section
/-! Proofs of the timer and key statements (46_timers_keys.md), and the rules they share: an instruction that writes a
timer and goes on to the next word, and the tick that ends the cycle of an instruction that executed. -/

namespace Sys2Proof.TimersKeys

open Sys2Proof.Machine Sys2Proof.Safety

/-! ### Decoding the words of the timer moves -/

theorem decode_word_groupF (x : Reg) (nn : Byte) : decode (wordXNN 0xF x nn) = decodeGroupF (wordXNN 0xF x nn) :=
  decodeWith_groupF (fields_wordXNN (by decide) x nn).1

theorem decode_word_ldVxDt (x : Reg) : decode (wordXNN 0xF x 0x07) = .instr (.ldVxDt x) := by
  obtain ⟨-, hx, hnn⟩ := fields_wordXNN (g := 0xF) (by decide) x 0x07
  rw [decode_word_groupF, decodeGroupF, hnn, hx]
  rfl

theorem decode_word_ldDtVx (x : Reg) : decode (wordXNN 0xF x 0x15) = .instr (.ldDtVx x) := by
  obtain ⟨-, hx, hnn⟩ := fields_wordXNN (g := 0xF) (by decide) x 0x15
  rw [decode_word_groupF, decodeGroupF, hnn, hx]
  rfl

theorem decode_word_ldStVx (x : Reg) : decode (wordXNN 0xF x 0x18) = .instr (.ldStVx x) := by
  obtain ⟨-, hx, hnn⟩ := fields_wordXNN (g := 0xF) (by decide) x 0x18
  rw [decode_word_groupF, decodeGroupF, hnn, hx]
  rfl

/-! ### The instructions as state updates -/

theorem exec_ldVxDt (x : Reg) (s : State) : exec (.ldVxDt x) s = .next (s.setV x s.dt).advance := rfl

theorem exec_ldDtVx (x : Reg) (s : State) : exec (.ldDtVx x) s = .next (s.setDT (s.getV x)).advance := rfl

theorem exec_ldStVx (x : Reg) (s : State) : exec (.ldStVx x) s = .next (s.setST (s.getV x)).advance := rfl

/-! ### Writing a timer and advancing -/

theorem completes_setDT_advance (b : Byte) (s : State) : Completes (s.pc + 2) s (s.setDT b).advance :=
  ControlFlow.completes_complete (s.pc + 2) (s.setDT b)

theorem completes_setST_advance (b : Byte) (s : State) : Completes (s.pc + 2) s (s.setST b).advance :=
  ControlFlow.completes_complete (s.pc + 2) (s.setST b)

/-- What setting the timer DT leaves unchanged besides the other timer. -/
theorem keepsRest_setDT_advance (b : Byte) (s : State) :
    KeepsRegs s (s.setDT b).advance ∧ (s.setDT b).advance.i = s.i ∧ KeepsStack s (s.setDT b).advance ∧
      KeepsMemory s (s.setDT b).advance ∧ KeepsDisplay s (s.setDT b).advance := by
  obtain ⟨hregs, hi, hstack, -, hmem, hdisplay⟩ := ControlFlow.keepsAllButPc_complete (s.pc + 2) (s.setDT b)
  exact ⟨hregs, hi, hstack, hmem, hdisplay⟩

/-- What setting the timer ST leaves unchanged besides the other timer. -/
theorem keepsRest_setST_advance (b : Byte) (s : State) :
    KeepsRegs s (s.setST b).advance ∧ (s.setST b).advance.i = s.i ∧ KeepsStack s (s.setST b).advance ∧
      KeepsMemory s (s.setST b).advance ∧ KeepsDisplay s (s.setST b).advance := by
  obtain ⟨hregs, hi, hstack, -, hmem, hdisplay⟩ := ControlFlow.keepsAllButPc_complete (s.pc + 2) (s.setST b)
  exact ⟨hregs, hi, hstack, hmem, hdisplay⟩

/-! ### The tick after an instruction that executed (40_cycle.md R57) -/

theorem tickedTo_countDown (b : Byte) : TickedTo b (countDown b) := by
  unfold TickedTo countDown
  by_cases hpos : b.toNat > 0
  · have hone : (1 : Byte) ≤ b := BitVec.le_def.2 hpos
    rw [if_pos hpos, BitVec.toNat_sub_of_le hone]
    rfl
  · rw [if_neg hpos]
    omega

section Executed
variable {t : State} (hexec : t.statusOut = .executed)
include hexec

theorem endCycle_of_executed : t.endCycle = t.tick.nextInput :=
  t.endCycle_ticking (by rw [hexec]; rfl)

theorem tickedTo_endCycle_dt : TickedTo t.dt t.endCycle.dt := by
  rw [endCycle_of_executed hexec, State.nextInput_dt, State.tick_dt]
  exact tickedTo_countDown t.dt

theorem tickedTo_endCycle_st : TickedTo t.st t.endCycle.st := by
  rw [endCycle_of_executed hexec, State.nextInput_st, State.tick_st]
  exact tickedTo_countDown t.st

/-- The cycle began with no beep (40_cycle.md R51), so only this tick can have raised it. -/
theorem endCycle_beep_iff (hbeep : t.beep = false) : t.endCycle.beep = true ↔ t.st = 1 := by
  rw [endCycle_of_executed hexec, State.nextInput_beep, State.tick_beep, hbeep, ite_eq_left_iff]
  simp

end Executed

/-! ### The statements -/

/-- Settles O32: each move writes its one register or timer and advances; the tick then counts down what it finds. -/
theorem timerMovesAndTheirTick : Obligations.TimerMovesAndTheirTick := by
  intro x s
  refine ⟨⟨decode_word_ldVxDt x, decode_word_ldDtVx x, decode_word_ldStVx x⟩, ⟨_, exec_ldVxDt x s, ?_⟩,
    ⟨_, exec_ldDtVx x s, ?_⟩, _, exec_ldStVx x s, ?_⟩
  · exact ⟨LoadCompute.completes_setV_advance x _ s, LoadCompute.writesReg_setV_advance x _ s,
      LoadCompute.keepsAllButRegs_setV_advance x _ s, tickedTo_endCycle_dt (State.advance_statusOut _)⟩
  · obtain ⟨hregs, hi, hstack, hmem, hdisplay⟩ := keepsRest_setDT_advance (s.getV x) s
    exact ⟨completes_setDT_advance _ s, rfl, rfl, hregs, hi, hstack, hmem, hdisplay,
      tickedTo_endCycle_dt (State.advance_statusOut _)⟩
  · obtain ⟨hregs, hi, hstack, hmem, hdisplay⟩ := keepsRest_setST_advance (s.getV x) s
    have hexec : (s.setST (s.getV x)).advance.statusOut = .executed := State.advance_statusOut _
    exact ⟨completes_setST_advance _ s, rfl, rfl, hregs, hi, hstack, hmem, hdisplay,
      tickedTo_endCycle_st hexec, endCycle_beep_iff hexec⟩

end Sys2Proof.TimersKeys
end

section
/-! Proofs of the encoding statements (30_encoding.md): the decoder on the words the encoder builds, the words a decoded
instruction can come from, and the decoder against the opcode table, each one primary group at a time. -/

namespace Sys2Proof.Encoding

open Sys2Proof.Machine

/-! ### Decoding the word of an instruction (R46, R47) -/

section DecodeEncode
variable {p : Params}

/-- A word whose ignored N is one decoding admits. -/
theorem decodeIgnoringN_of_ignoredField {op : Word} {i : Instr} (h : ignoredField p (fieldN op).toNat = true) :
    decodeIgnoringN p op i = .instr i := by
  unfold ignoredField at h
  rw [decodeIgnoringN, if_neg]
  cases hs : p.decodeStrict <;> simp_all

theorem decodeGroup0_wordNNN {nnn : BitVec 12} (h : sysField p nnn = true) :
    decodeGroup0 p (wordNNN 0x0 nnn) = .instr (.sys nnn) := by
  obtain ⟨-, hnnn⟩ := fields_wordNNN (g := 0x0) (by decide) nnn
  have hword : (wordNNN 0x0 nnn).toNat = nnn.toNat := by rw [wordNNN_toNat (by decide)]; omega
  rw [decodeGroup0, hnnn, fieldNN_toNat, hword]
  unfold sysField at h
  split <;> simp_all

theorem decodeGroup0_cls {x : Reg} (h : ignoredField p x.val = true) :
    decodeGroup0 p (wordXNN 0x0 x 0xE0) = .instr (.cls x) := by
  obtain ⟨-, hx, hnn⟩ := fields_wordXNN (g := 0x0) (by decide) x 0xE0
  have hword : (wordXNN 0x0 x 0xE0).toNat = x.val * 256 + 0xE0 := by rw [wordXNN_toNat (by decide)]; simp
  rw [decodeGroup0, hx, hnn, hword]
  unfold ignoredField at h
  split <;> simp_all

theorem decodeGroup0_ret {x : Reg} (h : ignoredField p x.val = true) :
    decodeGroup0 p (wordXNN 0x0 x 0xEE) = .instr (.ret x) := by
  obtain ⟨-, hx, hnn⟩ := fields_wordXNN (g := 0x0) (by decide) x 0xEE
  have hword : (wordXNN 0x0 x 0xEE).toNat = x.val * 256 + 0xEE := by rw [wordXNN_toNat (by decide)]; simp
  rw [decodeGroup0, hx, hnn, hword]
  unfold ignoredField at h
  split <;> simp_all

/-- Every well-formed instruction is what its word decodes to. -/
theorem decodeWith_encode {i : Instr} (h : i.wellFormedWith p = true) : decodeWith p (encode i) = .instr i := by
  cases i with
  | sys nnn => exact (decodeWith_group0 (fields_wordNNN (by decide) nnn).1).trans (decodeGroup0_wordNNN h)
  | cls x => exact (decodeWith_group0 (fields_wordXNN (by decide) x _).1).trans (decodeGroup0_cls h)
  | ret x => exact (decodeWith_group0 (fields_wordXNN (by decide) x _).1).trans (decodeGroup0_ret h)
  | jp nnn =>
    obtain ⟨hg, hnnn⟩ := fields_wordNNN (g := 0x1) (by decide) nnn
    rw [encode, decodeWith_group1 hg, hnnn]
  | call nnn =>
    obtain ⟨hg, hnnn⟩ := fields_wordNNN (g := 0x2) (by decide) nnn
    rw [encode, decodeWith_group2 hg, hnnn]
  | ldI nnn =>
    obtain ⟨hg, hnnn⟩ := fields_wordNNN (g := 0xA) (by decide) nnn
    rw [encode, decodeWith_groupA hg, hnnn]
  | jpV0 nnn =>
    obtain ⟨hg, hnnn⟩ := fields_wordNNN (g := 0xB) (by decide) nnn
    rw [encode, decodeWith_groupB hg, hnnn]
  | seImm x nn =>
    obtain ⟨hg, hx, hnn⟩ := fields_wordXNN (g := 0x3) (by decide) x nn
    rw [encode, decodeWith_group3 hg, hx, hnn]
  | sneImm x nn =>
    obtain ⟨hg, hx, hnn⟩ := fields_wordXNN (g := 0x4) (by decide) x nn
    rw [encode, decodeWith_group4 hg, hx, hnn]
  | ldImm x nn =>
    obtain ⟨hg, hx, hnn⟩ := fields_wordXNN (g := 0x6) (by decide) x nn
    rw [encode, decodeWith_group6 hg, hx, hnn]
  | addImm x nn =>
    obtain ⟨hg, hx, hnn⟩ := fields_wordXNN (g := 0x7) (by decide) x nn
    rw [encode, decodeWith_group7 hg, hx, hnn]
  | rnd x nn =>
    obtain ⟨hg, hx, hnn⟩ := fields_wordXNN (g := 0xC) (by decide) x nn
    rw [encode, decodeWith_groupC hg, hx, hnn]
  | seReg x y n =>
    obtain ⟨hg, hx, hy, hn⟩ := fields_wordXYN (g := 0x5) (by decide) x y n
    rw [encode, decodeWith_group5 hg, decodeIgnoringN_of_ignoredField (by rw [hn]; exact h), hx, hy, hn]
  | sneReg x y n =>
    obtain ⟨hg, hx, hy, hn⟩ := fields_wordXYN (g := 0x9) (by decide) x y n
    rw [encode, decodeWith_group9 hg, decodeIgnoringN_of_ignoredField (by rw [hn]; exact h), hx, hy, hn]
  | drw x y n =>
    obtain ⟨hg, hx, hy, hn⟩ := fields_wordXYN (g := 0xD) (by decide) x y n
    rw [encode, decodeWith_groupD hg, hx, hy, hn]
  | ldReg x y | orReg x y | andReg x y | xorReg x y | addReg x y | sub x y | shr x y | subn x y | shl x y =>
    obtain ⟨hg, hx, hy, hn⟩ := fields_wordXYN (g := 0x8) (by decide) x y _
    rw [encode, decodeWith_group8 hg, decodeGroup8, hx, hy, hn]
    rfl
  | skp x | sknp x =>
    obtain ⟨hg, hx, hnn⟩ := fields_wordXNN (g := 0xE) (by decide) x _
    rw [encode, decodeWith_groupE hg, decodeGroupE, hx, hnn]
    rfl
  | ldVxDt x | ldVxK x | ldDtVx x | ldStVx x | addI x | ldF x | ldB x | ldMemVx x | ldVxMem x =>
    obtain ⟨hg, hx, hnn⟩ := fields_wordXNN (g := 0xF) (by decide) x _
    rw [encode, decodeWith_groupF hg, decodeGroupF, hx, hnn]
    rfl

end DecodeEncode

/-- The same on this hardware. -/
theorem decode_encode {i : Instr} (h : i.wellFormed = true) : decode (encode i) = .instr i :=
  decodeWith_encode h

/-! ### The word of a decoded instruction (R43) -/

section Recompose
variable {op : Word} {g : Nat} (hg : fieldG op = g)
include hg

theorem toNat_div_eq : op.toNat / 4096 = g := hg

theorem wordNNN_fields : wordNNN g (fieldNNN op) = op := by
  have hlt : g < 16 := hg ▸ fieldG_lt op
  have hdiv := toNat_div_eq hg
  apply BitVec.eq_of_toNat_eq
  rw [wordNNN_toNat hlt, fieldNNN_toNat]
  omega

theorem wordXNN_fields : wordXNN g (fieldX op) (fieldNN op) = op := by
  have hlt : g < 16 := hg ▸ fieldG_lt op
  have hdiv := toNat_div_eq hg
  apply BitVec.eq_of_toNat_eq
  rw [wordXNN_toNat hlt, fieldX_val, fieldNN_toNat]
  omega

theorem wordXYN_fields : wordXYN g (fieldX op) (fieldY op) (fieldN op) = op := by
  have hlt : g < 16 := hg ▸ fieldG_lt op
  have hdiv := toNat_div_eq hg
  apply BitVec.eq_of_toNat_eq
  rw [wordXYN_toNat hlt, fieldX_val, fieldY_val, fieldN_toNat]
  omega

/-- A row of group 0, E or F fixes the low byte. -/
theorem wordXNN_fieldX {nn : Byte} (h : (fieldNN op).toNat = nn.toNat) : wordXNN g (fieldX op) nn = op := by
  rw [← BitVec.eq_of_toNat_eq h, wordXNN_fields hg]

/-- A row of group 8 fixes the low nibble. -/
theorem wordXYN_fieldXY {n : BitVec 4} (h : (fieldN op).toNat = n.toNat) :
    wordXYN g (fieldX op) (fieldY op) n = op := by
  rw [← BitVec.eq_of_toNat_eq h, wordXYN_fields hg]

end Recompose

section Inversion
variable {p : Params} {op : Word} {i : Instr}

theorem encode_of_decodeGroup0 (hg : fieldG op = 0x0) (h : decodeGroup0 p op = .instr i) :
    encode i = op ∧ i.wellFormedWith p = true := by
  have hword : op.toNat < 4096 := by
    have := toNat_div_eq hg
    omega
  have hnn := fieldNN_toNat op
  have hnnn : (fieldNNN op).toNat = op.toNat := by rw [fieldNNN_toNat, Nat.mod_eq_of_lt hword]
  unfold decodeGroup0 at h
  split at h
  · next hs =>
    split_ifs at h with hcls hret <;> cases h
    · exact ⟨wordXNN_fieldX hg (by rw [hnn, hcls]; rfl),
        by simp [Instr.wellFormedWith, ignoredField, fieldX_val, hcls]⟩
    · exact ⟨wordXNN_fieldX hg (by rw [hnn, hret]; rfl),
        by simp [Instr.wellFormedWith, ignoredField, fieldX_val, hret]⟩
    · exact ⟨wordNNN_fields hg, by simp [Instr.wellFormedWith, sysField, hs, hnnn, hcls, hret]⟩
  · next hs =>
    rw [hnn] at h
    split_ifs at h with hcls hret <;> cases h
    · exact ⟨wordXNN_fieldX hg (hnn.trans hcls), by simp [Instr.wellFormedWith, ignoredField, hs]⟩
    · exact ⟨wordXNN_fieldX hg (hnn.trans hret), by simp [Instr.wellFormedWith, ignoredField, hs]⟩
    · exact ⟨wordNNN_fields hg, by simp [Instr.wellFormedWith, sysField, hs, hnnn, hcls, hret]⟩

/-- An instruction that ignores N has a word of its own row only where decoding admits that N. -/
theorem eq_of_decodeIgnoringN {j : Instr} (h : decodeIgnoringN p op j = .instr i) :
    j = i ∧ ignoredField p (fieldN op).toNat = true := by
  unfold decodeIgnoringN at h
  split_ifs at h with hn
  exact ⟨Decoded.instr.inj h, by unfold ignoredField; cases hs : p.decodeStrict <;> simp_all⟩

/-- The word of a decoded instruction is `op`, and the instruction is well-formed. -/
def HasWord (p : Params) (op : Word) (d : Decoded) : Prop :=
  ∀ i, d = .instr i → encode i = op ∧ i.wellFormedWith p = true

theorem hasWord_instr (h : encode i = op) (hwf : i.wellFormedWith p = true) : HasWord p op (.instr i) := by
  rintro _ ⟨⟩
  exact ⟨h, hwf⟩

theorem hasWord_unknown {w : Word} : HasWord p op (.unknown w) := nofun

theorem hasWord_decodeGroup8 (hg : fieldG op = 0x8) : HasWord p op (decodeGroup8 op) := by
  unfold decodeGroup8
  iterate 9 refine iteInduction (fun hn => hasWord_instr (wordXYN_fieldXY hg hn) rfl) fun _ => ?_
  exact hasWord_unknown

theorem hasWord_decodeGroupE (hg : fieldG op = 0xE) : HasWord p op (decodeGroupE op) := by
  unfold decodeGroupE
  iterate 2 refine iteInduction (fun hnn => hasWord_instr (wordXNN_fieldX hg hnn) rfl) fun _ => ?_
  exact hasWord_unknown

theorem hasWord_decodeGroupF (hg : fieldG op = 0xF) : HasWord p op (decodeGroupF op) := by
  unfold decodeGroupF
  iterate 9 refine iteInduction (fun hnn => hasWord_instr (wordXNN_fieldX hg hnn) rfl) fun _ => ?_
  exact hasWord_unknown

/-- A word that decodes to an instruction is that instruction's word, and the instruction is well-formed. -/
theorem encode_of_decodeWith (h : decodeWith p op = .instr i) : encode i = op ∧ i.wellFormedWith p = true := by
  have hlt := fieldG_lt op
  generalize hg : fieldG op = g at hlt
  interval_cases g
  · exact encode_of_decodeGroup0 hg (decodeWith_group0 hg ▸ h)
  · rw [decodeWith_group1 hg] at h; cases h; exact ⟨wordNNN_fields hg, rfl⟩
  · rw [decodeWith_group2 hg] at h; cases h; exact ⟨wordNNN_fields hg, rfl⟩
  · rw [decodeWith_group3 hg] at h; cases h; exact ⟨wordXNN_fields hg, rfl⟩
  · rw [decodeWith_group4 hg] at h; cases h; exact ⟨wordXNN_fields hg, rfl⟩
  · obtain ⟨rfl, hn⟩ := eq_of_decodeIgnoringN (decodeWith_group5 hg ▸ h)
    exact ⟨wordXYN_fields hg, hn⟩
  · rw [decodeWith_group6 hg] at h; cases h; exact ⟨wordXNN_fields hg, rfl⟩
  · rw [decodeWith_group7 hg] at h; cases h; exact ⟨wordXNN_fields hg, rfl⟩
  · exact hasWord_decodeGroup8 hg i (decodeWith_group8 hg ▸ h)
  · obtain ⟨rfl, hn⟩ := eq_of_decodeIgnoringN (decodeWith_group9 hg ▸ h)
    exact ⟨wordXYN_fields hg, hn⟩
  · rw [decodeWith_groupA hg] at h; cases h; exact ⟨wordNNN_fields hg, rfl⟩
  · rw [decodeWith_groupB hg] at h; cases h; exact ⟨wordNNN_fields hg, rfl⟩
  · rw [decodeWith_groupC hg] at h; cases h; exact ⟨wordXNN_fields hg, rfl⟩
  · rw [decodeWith_groupD hg] at h; cases h; exact ⟨wordXYN_fields hg, rfl⟩
  · exact hasWord_decodeGroupE hg i (decodeWith_groupE hg ▸ h)
  · exact hasWord_decodeGroupF hg i (decodeWith_groupF hg ▸ h)

end Inversion

/-! ### The Unknown words (R49) -/

section Unknown
variable {p : Params} {op w : Word}

theorem decodeGroup0_ne_unknown : decodeGroup0 p op ≠ .unknown w := by
  unfold decodeGroup0
  split_ifs <;> nofun

theorem decodeIgnoringN_eq_unknown_iff {i : Instr} :
    decodeIgnoringN p op i = .unknown w ↔ w = op ∧ p.decodeStrict = true ∧ op.toNat % 16 ≠ 0 := by
  unfold decodeIgnoringN
  rw [fieldN_toNat]
  split_ifs with h <;> rw [Bool.and_eq_true, bne_iff_ne] at h
  · simp [h, eq_comm]
  · simp [h]

theorem decodeGroup8_eq_unknown_iff :
    decodeGroup8 op = .unknown w ↔ w = op ∧ op.toNat % 16 ∈ [0x8, 0x9, 0xA, 0xB, 0xC, 0xD, 0xF] := by
  have hlt : op.toNat % 16 < 16 := Nat.mod_lt _ (by decide)
  unfold decodeGroup8
  rw [fieldN_toNat]
  dsimp only
  generalize op.toNat % 16 = n at hlt
  interval_cases n <;> simp [eq_comm]

theorem decodeGroupE_eq_unknown_iff :
    decodeGroupE op = .unknown w ↔ w = op ∧ op.toNat % 256 ∉ [0x9E, 0xA1] := by
  unfold decodeGroupE
  rw [fieldNN_toNat]
  generalize op.toNat % 256 = nn
  iterate 2
    refine iteInduction (motive := fun d : Decoded => d = .unknown w ↔ _)
      (fun hnn => by simp [hnn]) fun _ => ?_
  simp [*, eq_comm]

theorem decodeGroupF_eq_unknown_iff :
    decodeGroupF op = .unknown w ↔
      w = op ∧ op.toNat % 256 ∉ [0x07, 0x0A, 0x15, 0x18, 0x1E, 0x29, 0x33, 0x55, 0x65] := by
  unfold decodeGroupF
  rw [fieldNN_toNat]
  generalize op.toNat % 256 = nn
  iterate 9
    refine iteInduction (motive := fun d : Decoded => d = .unknown w ↔ _)
      (fun hnn => by simp [hnn]) fun _ => ?_
  simp [*, eq_comm]

end Unknown

/-! ### The opcode table (R47, R48) -/

section Table
variable {op value : Word}

/-! What the three masks of the table test: the group, and the bits a row fixes below it. -/

@[simp] theorem and_group_beq :
    (op &&& 0xF000#16 == value) = (op.toNat / 4096 == value.toNat / 4096 && value.toNat % 4096 == 0) := by
  have := op.isLt
  rw [Bool.eq_iff_iff, and_group]
  simp only [beq_iff_eq, Bool.and_eq_true, ← BitVec.toNat_inj, BitVec.toNat_ofNat]
  omega

@[simp] theorem and_group_byte_beq :
    (op &&& 0xF0FF#16 == value) = (op.toNat / 4096 == value.toNat / 4096 && op.toNat % 256 == value.toNat % 4096) := by
  have := op.isLt
  rw [Bool.eq_iff_iff, and_group_byte]
  simp only [beq_iff_eq, Bool.and_eq_true, ← BitVec.toNat_inj, BitVec.toNat_ofNat]
  omega

@[simp] theorem and_group_nibble_beq :
    (op &&& 0xF00F#16 == value) = (op.toNat / 4096 == value.toNat / 4096 && op.toNat % 16 == value.toNat % 4096) := by
  have := op.isLt
  rw [Bool.eq_iff_iff, and_group_nibble]
  simp only [beq_iff_eq, Bool.and_eq_true, ← BitVec.toNat_inj, BitVec.toNat_ofNat]
  omega

/-- The rows of one primary group. -/
def groupRows (g : Nat) : List TableRow := opcodeTable.filter fun r => r.value.toNat / 4096 == g

theorem groupRows_group0 : groupRows 0x0 = [rowOf (.cls 0), rowOf (.ret 0), rowOf (.sys 0)] := by decide

theorem groupRows_group8 : groupRows 0x8 =
    [rowOf (.ldReg 0 0), rowOf (.orReg 0 0), rowOf (.andReg 0 0), rowOf (.xorReg 0 0), rowOf (.addReg 0 0),
      rowOf (.sub 0 0), rowOf (.shr 0 0), rowOf (.subn 0 0), rowOf (.shl 0 0)] := by decide

theorem groupRows_groupE : groupRows 0xE = [rowOf (.skp 0), rowOf (.sknp 0)] := by decide

theorem groupRows_groupF : groupRows 0xF =
    [rowOf (.ldVxDt 0), rowOf (.ldVxK 0), rowOf (.ldDtVx 0), rowOf (.ldStVx 0), rowOf (.addI 0), rowOf (.ldF 0),
      rowOf (.ldB 0), rowOf (.ldMemVx 0), rowOf (.ldVxMem 0)] := by decide

/-- Every mask of the table holds the group, so a word matches rows of its own group only. -/
theorem group_of_matches {r : TableRow} (hr : r ∈ opcodeTable) (h : op &&& r.mask = r.value) :
    r.value.toNat / 4096 = op.toNat / 4096 := by
  have hmask : ∀ r ∈ opcodeTable, r.mask &&& 0xF000#16 = 0xF000#16 := by decide
  have hgroup : op &&& 0xF000#16 = r.value &&& 0xF000#16 := by rw [← h, BitVec.and_assoc, hmask r hr]
  have := op.isLt
  have := r.value.isLt
  rw [and_group, and_group, ← BitVec.toNat_inj, BitVec.toNat_ofNat, BitVec.toNat_ofNat] at hgroup
  omega

theorem lookup_eq_find_groupRows {g : Nat} (hg : fieldG op = g) :
    lookup op = (groupRows g).find? fun r => op &&& r.mask == r.value := by
  rw [lookup, groupRows, List.find?_filter]
  refine List.find?_congr fun r hr => ?_
  by_cases h : op &&& r.mask = r.value
  · simp [h, group_of_matches hr h, toNat_div_eq hg]
  · simp [h]

theorem lookup_of_groupRows_singleton {g : Nat} {r : TableRow} (hg : fieldG op = g) (hrows : groupRows g = [r])
    (hmask : r.mask = 0xF000#16) (hvalue : r.value.toNat = g * 4096) : lookup op = some r := by
  rw [lookup_eq_find_groupRows hg, hrows]
  simp [hmask, toNat_div_eq hg, hvalue]

/-- The table's row for the word is the decoded instruction's; for Unknown there is none. -/
def RowAgrees (op : Word) : Decoded → Prop
  | .instr i => lookup op = some (rowOf i)
  | .unknown w => w = op ∧ lookup op = none

theorem rowAgrees_instr {i : Instr} (h : lookup op = some (rowOf i)) : RowAgrees op (.instr i) := h

theorem rowAgrees_group0 (hg : fieldG op = 0x0) : RowAgrees op (decodeGroup0 Config.params op) := by
  have hdiv := toNat_div_eq hg
  rw [decodeGroup0, fieldNN_toNat, if_neg (by simp)]
  split_ifs <;> simp [RowAgrees, lookup_eq_find_groupRows hg, groupRows_group0, rowOf, *]

theorem rowAgrees_group8 (hg : fieldG op = 0x8) : RowAgrees op (decodeGroup8 op) := by
  have hdiv := toNat_div_eq hg
  unfold decodeGroup8
  rw [fieldN_toNat]
  iterate 9
    refine iteInduction
      (fun _ => rowAgrees_instr (by simp [lookup_eq_find_groupRows hg, groupRows_group8, rowOf, *])) fun _ => ?_
  simp [RowAgrees, lookup_eq_find_groupRows hg, groupRows_group8, rowOf, *]

theorem rowAgrees_groupE (hg : fieldG op = 0xE) : RowAgrees op (decodeGroupE op) := by
  have hdiv := toNat_div_eq hg
  unfold decodeGroupE
  rw [fieldNN_toNat]
  iterate 2
    refine iteInduction
      (fun _ => rowAgrees_instr (by simp [lookup_eq_find_groupRows hg, groupRows_groupE, rowOf, *])) fun _ => ?_
  simp [RowAgrees, lookup_eq_find_groupRows hg, groupRows_groupE, rowOf, *]

theorem rowAgrees_groupF (hg : fieldG op = 0xF) : RowAgrees op (decodeGroupF op) := by
  have hdiv := toNat_div_eq hg
  unfold decodeGroupF
  rw [fieldNN_toNat]
  iterate 9
    refine iteInduction
      (fun _ => rowAgrees_instr (by simp [lookup_eq_find_groupRows hg, groupRows_groupF, rowOf, *])) fun _ => ?_
  simp [RowAgrees, lookup_eq_find_groupRows hg, groupRows_groupF, rowOf, *]

/-- In a group with one row, that row is the table's. -/
theorem rowAgrees_decode (op : Word) : RowAgrees op (decode op) := by
  have hlt := fieldG_lt op
  generalize hg : fieldG op = g at hlt
  unfold decode
  interval_cases g
  · exact decodeWith_group0 hg ▸ rowAgrees_group0 hg
  · exact decodeWith_group1 hg ▸ lookup_of_groupRows_singleton hg rfl rfl rfl
  · exact decodeWith_group2 hg ▸ lookup_of_groupRows_singleton hg rfl rfl rfl
  · exact decodeWith_group3 hg ▸ lookup_of_groupRows_singleton hg rfl rfl rfl
  · exact decodeWith_group4 hg ▸ lookup_of_groupRows_singleton hg rfl rfl rfl
  · exact decodeWith_group5 hg ▸ lookup_of_groupRows_singleton hg rfl rfl rfl
  · exact decodeWith_group6 hg ▸ lookup_of_groupRows_singleton hg rfl rfl rfl
  · exact decodeWith_group7 hg ▸ lookup_of_groupRows_singleton hg rfl rfl rfl
  · exact decodeWith_group8 hg ▸ rowAgrees_group8 hg
  · exact decodeWith_group9 hg ▸ lookup_of_groupRows_singleton hg rfl rfl rfl
  · exact decodeWith_groupA hg ▸ lookup_of_groupRows_singleton hg rfl rfl rfl
  · exact decodeWith_groupB hg ▸ lookup_of_groupRows_singleton hg rfl rfl rfl
  · exact decodeWith_groupC hg ▸ lookup_of_groupRows_singleton hg rfl rfl rfl
  · exact decodeWith_groupD hg ▸ lookup_of_groupRows_singleton hg rfl rfl rfl
  · exact decodeWith_groupE hg ▸ rowAgrees_groupE hg
  · exact decodeWith_groupF hg ▸ rowAgrees_groupF hg

end Table

/-! ### The statements -/

/-- Settles O1: the fields of each shape of word are read back, and the groups with several rows test the bits the row
fixes. -/
theorem decodeOfEncodeIsTheInstruction : Obligations.DecodeOfEncodeIsTheInstruction :=
  fun _ _ h => decodeWith_encode h

/-- Settles O2: in every primary group the fields the decoder keeps, with the bits its row fixes, are the whole word. -/
theorem encodeOfDecodeIsTheWord : Obligations.EncodeOfDecodeIsTheWord :=
  fun _ _ _ h => encode_of_decodeWith h

/-- Settles O3, group by group: 11 groups decode every word, group 0 among them, and the other five test N or NN. -/
theorem unknownWordsAreExactlyTheListed : Obligations.UnknownWordsAreExactlyTheListed := by
  intro p op w
  have hlt := fieldG_lt op
  generalize hg : fieldG op = g at hlt
  have hdiv := toNat_div_eq hg
  rw [hdiv]
  interval_cases g
  · simp [decodeWith_group0 hg, decodeGroup0_ne_unknown]
  · simp [decodeWith_group1 hg]
  · simp [decodeWith_group2 hg]
  · simp [decodeWith_group3 hg]
  · simp [decodeWith_group4 hg]
  · simp [decodeWith_group5 hg, decodeIgnoringN_eq_unknown_iff]
  · simp [decodeWith_group6 hg]
  · simp [decodeWith_group7 hg]
  · simp [decodeWith_group8 hg, decodeGroup8_eq_unknown_iff]
  · simp [decodeWith_group9 hg, decodeIgnoringN_eq_unknown_iff]
  · simp [decodeWith_groupA hg]
  · simp [decodeWith_groupB hg]
  · simp [decodeWith_groupC hg]
  · simp [decodeWith_groupD hg]
  · simp [decodeWith_groupE hg, decodeGroupE_eq_unknown_iff]
  · simp [decodeWith_groupF hg, decodeGroupF_eq_unknown_iff]

/-- Settles O4: both tests read the same bits of the word, the group and below it what the row fixes. -/
theorem decodeAgreesWithTheOpcodeTable : Obligations.DecodeAgreesWithTheOpcodeTable :=
  fun op => rowAgrees_decode op

/-- Settles O5: eleven words run through the decoder. -/
theorem sourceExampleWordsDecode : Obligations.SourceExampleWordsDecode := by
  unfold Obligations.SourceExampleWordsDecode
  decide

end Sys2Proof.Encoding
end

section
/-! The shape of every instruction, on which the proofs about all instructions rest: it raises the fatal error that the
table of 60_exceptions.md R99 gives it, and where the table gives none it has an effect, a total function of the state.
And the shape of every step, in these terms. -/

namespace Sys2Proof.Effects

open Sys2Proof.Machine Sys2Proof.Safety

/-! ### The effect of an instruction that raises no error -/

/-- stack[SP - 1], the return address on top (10_state.md R18); any slot where SP = 0. -/
def stackTop (s : State) : Word := s.stack[s.sp.val - 1]'(by omega)

/-- SP <- SP - 1, not below 0. -/
def dropTop (s : State) : State := { s with sp := ⟨s.sp.val - 1, by omega⟩ }

/-- stack[SP] <- w, SP <- SP + 1, not above 16. -/
def pushOnto (w : Word) (s : State) : State :=
  { s with stack := s.stack.setIfInBounds s.sp.val w, sp := ⟨min (s.sp.val + 1) 16, by omega⟩ }

/-- The `n` bytes of memory from I up. -/
def bytesFromI (n : Nat) (s : State) : List Byte := (List.range n).map fun k => s.mem.read (s.i.toNat + k)

/-- Memory with the bytes stored from I up. -/
def storedAtI (bs : List Byte) (s : State) : Memory := copyImage Config.params s.mem s.i.toNat bs

/-- The framebuffer and the collision of DRW x, y, n. -/
def drawnSprite (x y : Reg) (n : BitVec 4) (s : State) : Framebuffer × Bool :=
  drawRows (drawColumn x s) (drawRowStart y s) (bytesFromI n.toNat s) (s.fb, false)

/-- What an instruction leaves where it raises no fatal error. -/
def effect (i : Instr) (s : State) : State :=
  match i with
  | .sys _ => s.advance
  | .cls _ => (s.setFb blankFramebuffer).advance
  | .ret _ => (dropTop s).complete (stackTop s)
  | .jp nnn => s.complete (addressLiteral nnn)
  | .call nnn => (pushOnto (s.pc + 2) s).complete (addressLiteral nnn)
  | .seImm x nn => s.skipIf (s.getV x == nn)
  | .sneImm x nn => s.skipIf (s.getV x != nn)
  | .seReg x y _ => s.skipIf (s.getV x == s.getV y)
  | .ldImm x nn => (s.setV x nn).advance
  | .addImm x nn => (s.setV x (sumByte (s.getV x) nn)).advance
  | .ldReg x y => (s.setV x (s.getV y)).advance
  | .orReg x y => (s.setV x (s.getV x ||| s.getV y)).advance
  | .andReg x y => (s.setV x (s.getV x &&& s.getV y)).advance
  | .xorReg x y => (s.setV x (s.getV x ^^^ s.getV y)).advance
  | .addReg x y => ((s.setV x (sumByte (s.getV x) (s.getV y))).setFlag (carryFlag (s.getV x) (s.getV y))).advance
  | .sub x y => ((s.setV x (diffByte (s.getV x) (s.getV y))).setFlag (notBorrowFlag (s.getV x) (s.getV y))).advance
  | .shr x y => ((s.setV x (shrByte (s.getV y))).setFlag (shrFlag (s.getV y))).advance
  | .subn x y => ((s.setV x (diffByte (s.getV y) (s.getV x))).setFlag (notBorrowFlag (s.getV y) (s.getV x))).advance
  | .shl x y => ((s.setV x (shlByte (s.getV y))).setFlag (shlFlag (s.getV y))).advance
  | .sneReg x y _ => s.skipIf (s.getV x != s.getV y)
  | .ldI nnn => (s.setI (addressLiteral nnn)).advance
  | .jpV0 nnn => s.complete (offsetTarget nnn s)
  | .rnd x nn => (s.setV x (s.input.rand8 &&& nn)).advance
  | .drw x y n => ((s.setFb (drawnSprite x y n s).1).setFlag (flagOf (drawnSprite x y n s).2)).advance
  | .skp x => s.skipIf (s.keyPressed (s.getV x).toNat)
  | .sknp x => s.skipIf (!s.keyPressed (s.getV x).toNat)
  | .ldVxDt x => (s.setV x s.dt).advance
  | .ldVxK x => (s.pickKey Config.params).elim s.awaitKey fun k => (s.setV x (BitVec.ofNat 8 k.val)).advance
  | .ldDtVx x => (s.setDT (s.getV x)).advance
  | .ldStVx x => (s.setST (s.getV x)).advance
  | .addI x =>
    ((s.setI (indexPlus s (s.getV x).toNat)).setFlag (flagOf (indexOverflows s.i (s.getV x)))).advance
  | .ldF x => (s.setI (glyphAddress Config.params (s.getV x))).advance
  | .ldB x => (s.setMem (storedAtI (bcdDigits (s.getV x)) s)).advance
  | .ldMemVx x => ((s.setMem (storedAtI (s.regsUpTo x) s)).setI (indexPlus s (x.val + 1))).advance
  | .ldVxMem x => ((s.loadV (bytesFromI (x.val + 1) s)).setI (indexPlus s (x.val + 1))).advance

/-! ### The shared operations: where each fails, and what it answers where it does not -/

theorem push_of_lt {s : State} (w : Word) (h : s.sp.val < 16) : s.push w = some (pushOnto w s) := by
  rcases s.push_cases w with ⟨hsp, -⟩ | ⟨hlt, hlt', hpush⟩
  · omega
  · simp only [hpush, pushOnto, Vector.setIfInBounds, Vector.set, Array.setIfInBounds, Option.some.injEq]
    simp [hlt]

theorem pop_of_ne_zero {s : State} (h : s.sp.val ≠ 0) : s.pop = some (stackTop s, dropTop s) := by
  rcases s.pop_cases with ⟨hsp, -⟩ | ⟨k, hk, hk', hsp, hpop⟩
  · omega
  · simp [hpop, stackTop, dropTop, hsp]

/-- Several accesses from I up: the fault they raise, or that they are all in memory (20_memory.md R29). -/
theorem rangeFault_cases (op : Word) (len : Nat) (s : State) :
    (len ≠ 0 ∧ s.i.toNat + len > 4096 ∧ rangeFault op len s = some (.outOfRange s.pc op (max s.i.toNat 4096))) ∨
    ((s.i.toNat + len ≤ 4096 ∨ len = 0) ∧ rangeFault op len s = none) := by
  unfold rangeFault
  by_cases h : len ≠ 0 ∧ s.i.toNat + len > 4096
  · exact .inl ⟨h.1, h.2, if_pos h⟩
  · exact .inr ⟨by omega, if_neg h⟩

theorem le_of_rangeFault_eq_none {op : Word} {len : Nat} {s : State} (h : rangeFault op len s = none) (h0 : len ≠ 0) :
    s.i.toNat + len ≤ 4096 := by
  rcases rangeFault_cases op len s with ⟨-, -, hf⟩ | ⟨hle, -⟩
  · rw [hf] at h; cases h
  · omega

theorem bcdDigits_length (v : Byte) : (bcdDigits v).length = 3 := rfl

theorem writeBytes_of_gt {bs : List Byte} {s : State} (h0 : bs.length ≠ 0) (h : s.i.toNat + bs.length > 4096) :
    writeBytes Config.params s.mem (indexAddress s) bs = .error (max s.i.toNat 4096) :=
  writeBytes_error (by rintro rfl; exact h0 rfl) h

theorem writeBytes_of_le {bs : List Byte} {s : State} (h : s.i.toNat + bs.length ≤ 4096 ∨ bs.length = 0) :
    writeBytes Config.params s.mem (indexAddress s) bs = .ok (storedAtI bs s) :=
  writeBytes_ok (h.imp id List.eq_nil_of_length_eq_zero)

/-! ### Every instruction: its fatal error or its effect -/

/-- The instruction raises the fatal error the table gives it, and has its effect where the table gives none. -/
def RaisesOrTakesEffect (i : Instr) (s : State) : Prop :=
  exec i s = .next ((instrFault (encode i) s i).elim (effect i s) fun record => s.raise record)

theorem call_shape (nnn : BitVec 12) (s : State) : RaisesOrTakesEffect (.call nnn) s := by
  rcases s.push_cases (s.pc + 2) with ⟨hsp, hpush⟩ | ⟨hsp, -⟩
  · simp only [RaisesOrTakesEffect, exec, execCall, hpush, instrFault, if_pos hsp, Option.elim]
  · simp only [RaisesOrTakesEffect, exec, execCall, push_of_lt _ hsp, instrFault, if_neg (Nat.ne_of_lt hsp),
      Option.elim, effect]

theorem ret_shape (x : Reg) (s : State) : RaisesOrTakesEffect (.ret x) s := by
  rcases s.pop_cases with ⟨hsp, hpop⟩ | ⟨k, -, -, hsp, -⟩
  · simp only [RaisesOrTakesEffect, exec, execRet, hpop, instrFault, if_pos hsp, Option.elim]
  · have hne : s.sp.val ≠ 0 := by omega
    simp only [RaisesOrTakesEffect, exec, execRet, pop_of_ne_zero hne, instrFault, if_neg hne, Option.elim, effect]

theorem drw_shape (x y : Reg) (n : BitVec 4) (s : State) : RaisesOrTakesEffect (.drw x y n) s := by
  unfold RaisesOrTakesEffect
  rcases rangeFault_cases (encode (.drw x y n)) n.toNat s with ⟨h0, hgt, hf⟩ | ⟨hle, hf⟩
  · simp only [exec, execDrw, instrFault, hf, indexAddress, readBytes_error h0 hgt]; rfl
  · simp only [exec, execDrw, instrFault, hf, indexAddress, readBytes_ok hle]; rfl

theorem ldVxMem_shape (x : Reg) (s : State) : RaisesOrTakesEffect (.ldVxMem x) s := by
  unfold RaisesOrTakesEffect
  rcases rangeFault_cases (encode (.ldVxMem x)) (x.val + 1) s with ⟨h0, hgt, hf⟩ | ⟨hle, hf⟩
  · simp only [exec, execLdVxMem, instrFault, hf, indexAddress, readBytes_error h0 hgt]; rfl
  · simp only [exec, execLdVxMem, instrFault, hf, indexAddress, readBytes_ok hle]; rfl

theorem ldB_shape (x : Reg) (s : State) : RaisesOrTakesEffect (.ldB x) s := by
  unfold RaisesOrTakesEffect
  rcases rangeFault_cases (encode (.ldB x)) (bcdDigits (s.getV x)).length s with ⟨h0, hgt, hf⟩ | ⟨hle, hf⟩
  · rw [bcdDigits_length] at hf
    simp only [exec, execLdB, writeBytes_of_gt h0 hgt, instrFault, hf]; rfl
  · rw [bcdDigits_length] at hf
    simp only [exec, execLdB, writeBytes_of_le hle, instrFault, hf]; rfl

theorem ldMemVx_shape (x : Reg) (s : State) : RaisesOrTakesEffect (.ldMemVx x) s := by
  unfold RaisesOrTakesEffect
  rcases rangeFault_cases (encode (.ldMemVx x)) (s.regsUpTo x).length s with ⟨h0, hgt, hf⟩ | ⟨hle, hf⟩
  · rw [State.regsUpTo_length] at hf
    simp only [exec, execLdMemVx, writeBytes_of_gt h0 hgt, instrFault, hf]; rfl
  · rw [State.regsUpTo_length] at hf
    simp only [exec, execLdMemVx, writeBytes_of_le hle, instrFault, hf]; rfl

theorem skp_shape (x : Reg) (s : State) : RaisesOrTakesEffect (.skp x) s := by
  unfold RaisesOrTakesEffect
  by_cases hkey : (s.getV x).toNat ≥ 16
  · simp only [exec, execSkp, instrFault, keyFault, if_pos hkey]; rfl
  · simp only [exec, execSkp, instrFault, keyFault, if_neg hkey]; rfl

theorem sknp_shape (x : Reg) (s : State) : RaisesOrTakesEffect (.sknp x) s := by
  unfold RaisesOrTakesEffect
  by_cases hkey : (s.getV x).toNat ≥ 16
  · simp only [exec, execSknp, instrFault, keyFault, if_pos hkey]; rfl
  · simp only [exec, execSknp, instrFault, keyFault, if_neg hkey]; rfl

theorem exec_shape (i : Instr) (s : State) : RaisesOrTakesEffect i s := by
  cases i with
  | call nnn => exact call_shape nnn s
  | ret x => exact ret_shape x s
  | drw x y n => exact drw_shape x y n s
  | ldVxMem x => exact ldVxMem_shape x s
  | ldB x => exact ldB_shape x s
  | ldMemVx x => exact ldMemVx_shape x s
  | skp x => exact skp_shape x s
  | sknp x => exact sknp_shape x s
  | ldVxK x =>
    simp only [RaisesOrTakesEffect, exec, execLdVxK, instrFault, effect, Option.elim]
    cases s.pickKey Config.params <;> rfl
  | addI x => simp only [RaisesOrTakesEffect, exec, execAddI, State.indexFlag_eq]; rfl
  | _ => rfl

section OneInstruction
variable {i : Instr} {s t : State}

theorem exec_of_fault {record : FaultRecord} (h : instrFault (encode i) s i = some record) :
    exec i s = .next (s.raise record) := by
  rw [exec_shape i s, h]; rfl

theorem exec_of_noFault (h : instrFault (encode i) s i = none) : exec i s = .next (effect i s) := by
  rw [exec_shape i s, h]; rfl

/-- Everything an instruction can do. -/
theorem exec_cases (h : exec i s = .next t) :
    (∃ record, instrFault (encode i) s i = some record ∧ t = s.raise record) ∨
    (instrFault (encode i) s i = none ∧ t = effect i s) := by
  rw [exec_shape i s, Host.Outcome.next.injEq] at h
  cases hf : instrFault (encode i) s i with
  | some record => exact .inl ⟨record, rfl, by rw [← h, hf]; rfl⟩
  | none => exact .inr ⟨rfl, by rw [← h, hf]; rfl⟩

/-- An instruction that leaves the block running raised no error and had its effect. -/
theorem exec_running (h : exec i s = .next t) (hrun : t.status = .running) :
    instrFault (encode i) s i = none ∧ t = effect i s := by
  rcases exec_cases h with ⟨record, -, rfl⟩ | hok
  · rw [State.raise_status] at hrun; cases hrun
  · exact hok

theorem faults_raise (record : FaultRecord) (s : State) : Faults record s (s.raise record) := ⟨rfl, rfl, rfl⟩

end OneInstruction

/-! ### What every effect leaves alone -/

section Effect
variable (i : Instr) (s : State)

/-- A key wait ends in one of two ways. -/
theorem effect_ldVxK_cases (x : Reg) (s : State) :
    (s.pickKey Config.params = none ∧ effect (.ldVxK x) s = s.awaitKey) ∨
    ∃ k : Key, s.pickKey Config.params = some k ∧
      effect (.ldVxK x) s = (s.setV x (BitVec.ofNat 8 k.val)).advance := by
  unfold effect
  cases s.pickKey Config.params with
  | none => exact .inl ⟨rfl, rfl⟩
  | some k => exact .inr ⟨k, rfl, rfl⟩

/-- Either way a key wait writes at most registers, the pc and the status output. -/
theorem effect_ldVxK_form (x : Reg) (s : State) :
    ∃ v pc out, effect (.ldVxK x) s = { s with v := v, pc := pc, statusOut := out } := by
  rcases effect_ldVxK_cases x s with ⟨-, h⟩ | ⟨k, -, h⟩ <;> exact ⟨_, _, _, h⟩

/-- No effect touches the run status, the beep, the loader's status or the inputs. -/
theorem keepsSession_effect : KeepsSession s (effect i s) := by
  cases i with
  | ldVxK x =>
    obtain ⟨_, _, _, h⟩ := effect_ldVxK_form x s
    rw [h]
    exact ⟨rfl, rfl, rfl, rfl, rfl⟩
  | _ => exact ⟨rfl, rfl, rfl, rfl, rfl⟩

theorem effect_statusOut : (effect i s).statusOut = .executed ∨ (effect i s).statusOut = .awaitingInput := by
  cases i with
  | ldVxK x => rcases effect_ldVxK_cases x s with ⟨-, h⟩ | ⟨k, -, h⟩ <;> rw [h] <;> simp
  | _ => exact .inl rfl

end Effect

/-! ### Every step -/

section Step
variable {s u : State}

theorem fetch_of_le (h : s.pc.toNat + 1 ≤ 0xFFF) : s.fetch = .ok (wordAtPc s) := if_neg (by omega)

theorem fetch_of_gt (h : s.pc.toNat + 1 > 0xFFF) : s.fetch = .error (.fetchOutOfRange s.pc) := if_pos h

/-- The start of a cycle changes nothing that decides whether an instruction faults. -/
theorem instrFault_beginCycle (op : Word) (i : Instr) : instrFault op s.beginCycle i = instrFault op s i := by
  cases i <;> rfl

theorem step_of_fetch_gt (hs : Ready s) (h : s.pc.toNat + 1 > 0xFFF) :
    step s = .next (s.beginCycle.raise (.fetchOutOfRange s.pc)).endCycle := by
  rw [step_running hs.1 hs.2]
  have hfetch : s.beginCycle.fetch = .error (.fetchOutOfRange s.pc) := fetch_of_gt h
  simp only [runCycle, hfetch]

theorem step_of_unknown {w : Word} (hs : Ready s) (h : s.pc.toNat + 1 ≤ 0xFFF)
    (hd : decode (wordAtPc s) = .unknown w) : step s = .next (s.beginCycle.unknownOpcode w).endCycle := by
  rw [step_running hs.1 hs.2]
  have hfetch : s.beginCycle.fetch = .ok (wordAtPc s) := fetch_of_le h
  simp only [runCycle, hfetch, hd]

theorem step_of_runs {i : Instr} {t : State} (h : Runs s i) (ht : exec i s.beginCycle = .next t) :
    step s = .next t.endCycle := by
  obtain ⟨hs, hpc, hd⟩ := h
  rw [step_running hs.1 hs.2]
  have hfetch : s.beginCycle.fetch = .ok (wordAtPc s) := fetch_of_le hpc
  simp only [runCycle, hfetch, hd, ht]

/-- The word that is fetched is the instruction's, so both read the same fault off the table. -/
theorem fatalCause_of_runs {i : Instr} (h : Runs s i) : fatalCause s = instrFault (encode i) s.beginCycle i := by
  obtain ⟨-, hpc, hd⟩ := h
  rw [fatalCause, if_neg (by omega), hd, (Encoding.encode_of_decodeWith hd).1, instrFault_beginCycle]

/-- Everything a step can do: the fatal error of the table, the Unknown word, or the effect of the instruction at the
pc. -/
theorem step_cases (h : step s = .next u) :
    (∃ record, fatalCause s = some record ∧ u = (s.beginCycle.raise record).endCycle) ∨
    (fatalCause s = none ∧ s.pc.toNat + 1 ≤ 0xFFF ∧ (∃ w, decode (wordAtPc s) = .unknown w ∧
      u = (s.beginCycle.unknownOpcode w).endCycle)) ∨
    (fatalCause s = none ∧ ∃ i, Runs s i ∧ u = (effect i s.beginCycle).endCycle) := by
  obtain ⟨hload, hrun, -⟩ := step_next h
  have hs : Ready s := ⟨hload, hrun⟩
  by_cases hpc : s.pc.toNat + 1 > 0xFFF
  · rw [step_of_fetch_gt hs hpc, Host.Outcome.next.injEq] at h
    exact .inl ⟨_, if_pos hpc, h.symm⟩
  · have hle : s.pc.toNat + 1 ≤ 0xFFF := by omega
    cases hd : decode (wordAtPc s) with
    | unknown w =>
      rw [step_of_unknown hs hle hd, Host.Outcome.next.injEq] at h
      exact .inr (.inl ⟨by rw [fatalCause, if_neg hpc, hd], hle, w, rfl, h.symm⟩)
    | instr i =>
      have hi : Runs s i := ⟨hs, hle, hd⟩
      obtain ⟨t, ht⟩ := exec_answers i s.beginCycle
      rw [step_of_runs hi ht, Host.Outcome.next.injEq] at h
      rcases exec_cases ht with ⟨record, hf, rfl⟩ | ⟨hf, rfl⟩
      · exact .inl ⟨record, (fatalCause_of_runs hi).trans hf, h.symm⟩
      · exact .inr (.inr ⟨(fatalCause_of_runs hi).trans hf, i, hi, h.symm⟩)

end Step

end Sys2Proof.Effects
end

section
/-! Proofs of the remaining control flow statements (41_control_flow.md): the no-op, the subroutines, the skips on two
registers and the jump with offset. -/

namespace Sys2Proof.ControlFlow

open Sys2Proof.Machine Sys2Proof.Safety Sys2Proof.Effects Sys2Proof.Encoding

/-! ### The stack after a call and after a return (10_state.md R18) -/

section Stack
variable {s : State}

theorem pushOnto_sp (w : Word) (h : s.sp.val < 16) : (pushOnto w s).sp.val = s.sp.val + 1 :=
  Nat.min_eq_left h

theorem pushOnto_stack (w : Word) (k : Fin 16) :
    (pushOnto w s).stack.get k = if k.val = s.sp.val then w else s.stack.get k := by
  rw [pushOnto, Vector.get_eq_getElem, Vector.get_eq_getElem, Vector.getElem_setIfInBounds]
  exact if_congr eq_comm rfl rfl

theorem stackTop_eq {k : Fin 16} (h : s.sp.val = k.val + 1) : stackTop s = s.stack.get k := by
  simp [stackTop, h, Vector.get_eq_getElem]

theorem exec_call_of_lt (nnn : BitVec 12) (h : s.sp.val < 16) : exec (.call nnn) s = .next (effect (.call nnn) s) :=
  exec_of_noFault (if_neg (Nat.ne_of_lt h))

theorem exec_ret_of_ne_zero (x : Reg) (h : s.sp.val ≠ 0) : exec (.ret x) s = .next (effect (.ret x) s) :=
  exec_of_noFault (if_neg h)

end Stack

/-! ### Where a jump with offset and the next words lie -/

/-- NNN + V0 does not wrap (R70). -/
theorem offsetTarget_toNat (nnn : BitVec 12) (s : State) :
    (offsetTarget nnn s).toNat = nnn.toNat + (s.getV 0).toNat := by
  have := nnn.isLt
  have := (s.getV 0).isLt
  rw [offsetTarget, BitVec.toNat_ofNat]
  omega

/-- From a pc a word is fetched at, the next words do not wrap (10_state.md R17). -/
theorem toNat_add_of_le {pc : Word} (hpc : pc.toNat ≤ 0xFFE) {n : Word} (hn : n.toNat ≤ 4) :
    (pc + n).toNat = pc.toNat + n.toNat := by
  rw [BitVec.toNat_add]
  omega

/-! ### The statements -/

/-- Settles O6: only CLS and RET have rows inside group 0, by the low byte; SYS advances and does nothing else. -/
theorem sysDoesNothing : Obligations.SysDoesNothing := by
  intro nnn s
  refine ⟨fun hcls hret => decode_encode (i := .sys nnn) ?_, _, exec_of_noFault rfl, completes_complete _ s,
    keepsAllButPc_complete _ s⟩
  simp [Instr.wellFormed, Instr.wellFormedWith, sysField, hcls, hret]

/-- Settles O8: with room on the stack the push writes one slot, at SP; with 16 addresses there the table has a
fault. -/
theorem callPushesTheNextAddress : Obligations.CallPushesTheNextAddress := by
  intro nnn s
  refine ⟨decode_encode (i := .call nnn) rfl, fun hroom => ?_, fun hfull => ?_⟩
  · exact ⟨_, exec_call_of_lt nnn hroom, completes_complete _ (pushOnto (s.pc + 2) s), pushOnto_sp (s.pc + 2) hroom,
      pushOnto_stack (s.pc + 2), fun _ => rfl, rfl, ⟨rfl, rfl⟩, fun _ => rfl, rfl, rfl⟩
  · exact ⟨_, exec_of_fault (if_pos hfull), faults_raise _ s⟩

/-- Settles O9: the slot under SP is the top; with no slot occupied the table has a fault. -/
theorem returnPopsThePc : Obligations.ReturnPopsThePc := by
  intro x s
  refine ⟨decode_encode (i := .ret x) rfl, fun k hk => ?_, fun hempty => ?_⟩
  · have hsp : s.sp.val ≠ 0 := by omega
    rw [← stackTop_eq hk]
    exact ⟨_, exec_ret_of_ne_zero x hsp, completes_complete _ (dropTop s), congrArg (· - 1) hk, rfl, fun _ => rfl,
      rfl, ⟨rfl, rfl⟩, fun _ => rfl, rfl, rfl⟩
  · exact ⟨_, exec_of_fault (if_pos hempty), faults_raise _ s⟩

/-- Settles O10: the end of the call's cycle leaves the stack alone, so the return finds on top what the call pushed. -/
theorem returnAfterCallResumes : Obligations.ReturnAfterCallResumes := by
  intro nnn x s t hroom ht
  rw [exec_call_of_lt nnn hroom, Host.Outcome.next.injEq] at ht
  obtain ⟨-, -, -, hstack, hsp, -, -, -, hstatus, -⟩ := t.endCycle_keeps
  have hdepth : t.endCycle.sp.val = s.sp.val + 1 := by rw [hsp, ← ht]; exact pushOnto_sp (s.pc + 2) hroom
  refine ⟨_, exec_ret_of_ne_zero x (by omega), ?_, Fin.ext ?_, ?_⟩
  · change stackTop t.endCycle = s.pc + 2
    rw [stackTop_eq (k := ⟨s.sp.val, hroom⟩) hdepth, hstack, ← ht]
    exact (pushOnto_stack _ _).trans (if_pos rfl)
  · change t.endCycle.sp.val - 1 = s.sp.val
    omega
  · change t.endCycle.status = s.status
    rw [hstatus, ← ht]
    rfl

/-- Settles O12: both skips complete at the target their test chooses, whatever N. -/
theorem skipOnTwoRegisters : Obligations.SkipOnTwoRegisters := by
  intro x y n s
  refine ⟨⟨decode_encode (i := .seReg x y n) rfl, decode_encode (i := .sneReg x y n) rfl⟩,
    ⟨_, exec_of_noFault rfl, ?_, keepsAllButPc_skipIf _ s⟩, _, exec_of_noFault rfl, ?_, keepsAllButPc_skipIf _ s⟩
  · exact completes_skipIf beq_iff_eq s
  · exact completes_skipIf bne_iff_ne s

/-- Settles O13: a 12-bit address and a byte have a 16-bit sum; above 0xFFE no second byte is left to fetch. -/
theorem jumpWithOffsetAddsV0 : Obligations.JumpWithOffsetAddsV0 := by
  intro nnn s
  exact ⟨decode_encode (i := .jpV0 nnn) rfl, _, exec_of_noFault rfl, completes_complete _ s, offsetTarget_toNat nnn s,
    keepsAllButPc_complete _ s, fetch_endCycle_of_pc_gt⟩

end Sys2Proof.ControlFlow
end

section
/-! Proofs of the remaining compute statements: the bitwise operations (42_load_compute.md), the arithmetic and the
shifts with their flags (43_arith_shift.md), and the random byte (44_random.md). -/

namespace Sys2Proof.ArithShift

open Sys2Proof.Machine Sys2Proof.Safety Sys2Proof.Effects Sys2Proof.Encoding

/-! ### Writing a register, and a register and a flag, and advancing -/

/-- A register write, in the terms of the statements that name the register's bits. -/
theorem setV_advance_rule (x : Reg) (b : Byte) (s : State) :
    Completes (s.pc + 2) s (s.setV x b).advance ∧ KeepsAllButRegs s (s.setV x b).advance ∧
      (s.setV x b).advance.getV x = b ∧ ∀ r, r ≠ x → (s.setV x b).advance.getV r = s.getV r := by
  have hwrites := LoadCompute.writesReg_setV_advance x b s
  exact ⟨LoadCompute.completes_setV_advance x b s, LoadCompute.keepsAllButRegs_setV_advance x b s,
    LoadCompute.getV_of_writesReg hwrites, fun r hr => LoadCompute.getV_of_writesReg_of_ne hwrites hr⟩

/-- A result and a flag: the flag lands last (D5). -/
theorem setFlag_advance_rule (x : Reg) (b flag : Byte) (s : State) :
    Completes (s.pc + 2) s ((s.setV x b).setFlag flag).advance ∧
      KeepsAllButRegs s ((s.setV x b).setFlag flag).advance ∧
      WritesRegAndFlag x b flag s ((s.setV x b).setFlag flag).advance := by
  refine ⟨ControlFlow.completes_complete _ ((s.setV x b).setFlag flag),
    (ControlFlow.keepsAllButPc_complete _ ((s.setV x b).setFlag flag)).2, ?_, fun hx => ?_, fun r hr hr15 => ?_⟩
  all_goals rw [State.advance_getV, State.getV_setFlag]
  · exact if_pos rfl
  · rw [if_neg hx, State.getV_setV, if_pos rfl]
  · rw [if_neg hr15, State.getV_setV, if_neg hr]

/-! ### The results and flags on bytes -/

theorem sumByte_eq (a b : Byte) : sumByte a b = BitVec.ofNat 8 ((a.toNat + b.toNat) % 256) :=
  BitVec.eq_of_toNat_eq (by rw [LoadCompute.sumByte_toNat, BitVec.toNat_ofNat, Nat.mod_mod])

theorem flagOf_decide (P : Prop) [Decidable P] : flagOf (decide P) = if P then 1 else 0 := by
  by_cases h : P <;> simp [flagOf, h]

theorem diffByte_eq (a b : Byte) : diffByte a b = a - b := by
  have := b.isLt
  apply BitVec.eq_of_toNat_eq
  rw [diffByte, BitVec.toNat_ofNat, BitVec.toNat_sub]
  omega

theorem notBorrowFlag_eq (a b : Byte) : notBorrowFlag a b = if b.toNat > a.toNat then 0 else 1 := by
  rw [notBorrowFlag, flagOf_decide, ite_not]

theorem shrByte_eq (a : Byte) : shrByte a = a >>> 1 :=
  BitVec.eq_of_toNat_eq (by simp [shrByte, Nat.shiftRight_eq_div_pow]; omega)

theorem shlByte_eq (a : Byte) : shlByte a = a <<< 1 :=
  BitVec.eq_of_toNat_eq (by simp [shlByte, Nat.shiftLeft_eq])

theorem shrFlag_eq (a : Byte) : shrFlag a = if a.getLsbD 0 then 1 else 0 := by
  revert a; decide

theorem shlFlag_eq (a : Byte) : shlFlag a = if a.getLsbD 7 then 1 else 0 := by
  revert a; decide

/-! ### The statements -/

/-- Settles O16: each operation is a register write, and the operators of bytes work bit by bit. -/
theorem bitwiseOperationsTouchNoFlag : Obligations.BitwiseOperationsTouchNoFlag := by
  intro x y s
  refine ⟨⟨decode_encode (i := .orReg x y) rfl, decode_encode (i := .andReg x y) rfl,
    decode_encode (i := .xorReg x y) rfl⟩, ⟨_, exec_of_noFault rfl, ?_⟩, ⟨_, exec_of_noFault rfl, ?_⟩, _,
    exec_of_noFault rfl, ?_⟩
  · obtain ⟨hdone, hrest, hx, hregs⟩ := setV_advance_rule x (s.getV x ||| s.getV y) s
    exact ⟨hdone, hrest, fun k _ => hx ▸ BitVec.getLsbD_or, hregs⟩
  · obtain ⟨hdone, hrest, hx, hregs⟩ := setV_advance_rule x (s.getV x &&& s.getV y) s
    exact ⟨hdone, hrest, fun k _ => hx ▸ BitVec.getLsbD_and, hregs⟩
  · obtain ⟨hdone, hrest, hx, hregs⟩ := setV_advance_rule x (s.getV x ^^^ s.getV y) s
    exact ⟨hdone, hrest, fun k _ => hx ▸ BitVec.getLsbD_xor, hregs⟩

/-- Settles O17: the flag is the carry of the sum on natural numbers, the result that sum narrowed to a byte. -/
theorem addSetsCarry : Obligations.AddSetsCarry := by
  intro x y s
  refine ⟨decode_encode (i := .addReg x y) rfl, _, exec_of_noFault rfl, ?_⟩
  rw [← sumByte_eq, ← flagOf_decide]
  exact setFlag_advance_rule x _ _ s

/-- Settles O18: the difference on natural numbers, 256 added against the borrow, narrows to the difference of bytes. -/
theorem subtractSetsNotBorrow : Obligations.SubtractSetsNotBorrow := by
  intro x y s
  refine ⟨⟨decode_encode (i := .sub x y) rfl, decode_encode (i := .subn x y) rfl⟩, ⟨_, exec_of_noFault rfl, ?_⟩, _,
    exec_of_noFault rfl, ?_⟩
  · rw [← diffByte_eq, ← notBorrowFlag_eq]
    exact setFlag_advance_rule x _ _ s
  · rw [← diffByte_eq, ← notBorrowFlag_eq]
    exact setFlag_advance_rule x _ _ s

/-- Settles O19: halving and doubling are the shifts by one, and the flag is the bit that leaves the byte. -/
theorem shiftsMoveOneBitFromVy : Obligations.ShiftsMoveOneBitFromVy := by
  intro x y s
  refine ⟨⟨decode_encode (i := .shr x y) rfl, decode_encode (i := .shl x y) rfl⟩, ⟨_, exec_of_noFault rfl, ?_⟩, _,
    exec_of_noFault rfl, ?_⟩
  · obtain ⟨hdone, hrest, hflag, hx, hregs⟩ := setFlag_advance_rule x (shrByte (s.getV y)) (shrFlag (s.getV y)) s
    refine ⟨hdone, hrest, hflag.trans (shrFlag_eq _), fun h15 k _ => (congrArg (·.getLsbD k) (hx h15)).trans ?_, hregs⟩
    rw [shrByte_eq, BitVec.getLsbD_ushiftRight, Nat.add_comm]
  · obtain ⟨hdone, hrest, hflag, hx, hregs⟩ := setFlag_advance_rule x (shlByte (s.getV y)) (shlFlag (s.getV y)) s
    refine ⟨hdone, hrest, hflag.trans (shlFlag_eq _), fun h15 => ⟨(congrArg (·.getLsbD 0) (hx h15)).trans ?_,
      fun k hk => (congrArg (·.getLsbD (k + 1)) (hx h15)).trans ?_⟩, hregs⟩
    · simp [shlByte_eq]
    · have hlt : k + 1 < 8 := by omega
      rw [shlByte_eq, BitVec.getLsbD_shiftLeft, decide_eq_true hlt, Nat.add_sub_cancel]
      simp

/-- Settles O21: RND is a register write of the masked byte. -/
theorem randomMasksTheByte : Obligations.RandomMasksTheByte := by
  intro x nn s
  obtain ⟨hdone, hrest, hx, hregs⟩ := setV_advance_rule x (s.input.rand8 &&& nn) s
  exact ⟨decode_encode (i := .rnd x nn) rfl, _, exec_of_noFault rfl, hdone, hrest,
    fun k _ => hx ▸ BitVec.getLsbD_and, hregs⟩

end Sys2Proof.ArithShift
end

section
/-! Proofs of the invariants: the canonical form of memory (entry 15), and the bound on the pc (10_state.md R17), which
needs the bound on the return addresses beside it. -/

namespace Sys2Proof.Invariants

open Sys2Proof.Machine Sys2Proof.Safety Sys2Proof.Effects Sys2Proof.ControlFlow

/-! ### The canonical form of memory -/

section MemoryForm
variable {i : Instr} {s : State}

/-- Only FX33 and FX55 store to memory (20_memory.md R28). -/
theorem effect_mem (h : writesMemory i = false) : (effect i s).mem = s.mem := by
  cases i with
  | ldB x | ldMemVx x => cases h
  | ldVxK x => obtain ⟨_, _, _, he⟩ := effect_ldVxK_form x s; rw [he]
  | _ => rfl

/-- A store that raises no error writes below 4096. -/
theorem memoryInv_effect (h : MemoryInv s) (hf : instrFault (encode i) s i = none) : MemoryInv (effect i s) := by
  cases i with
  | ldB x => exact Memory.wf_copyImage h (le_of_rangeFault_eq_none (len := 3) hf (by decide))
  | ldMemVx x =>
    have hle := le_of_rangeFault_eq_none hf (Nat.succ_ne_zero _)
    exact Memory.wf_copyImage h (by rw [State.regsUpTo_length]; exact hle)
  | _ => rw [MemoryInv, effect_mem rfl]; exact h

end MemoryForm

/-! ### The bound on the pc -/

section PcBound
variable {s : State}

/-- What the invariant PcInv asks of a running block. -/
def PcBounded (s : State) : Prop :=
  s.pc.toNat ≤ 0x10FE ∧ ∀ k : Fin 16, k.val < s.sp.val → (s.stack.get k).toNat ≤ 0x1000

section Kept
variable {t : State} (hpc : s.pc.toNat ≤ 0xFFE) (hs : PcBounded s) (hstack : KeepsStack s t)
include hs hstack

/-- An instruction that leaves the stack alone only has to keep the pc in bounds. -/
theorem pcBounded_of_keepsStack (h : t.pc.toNat ≤ 0x10FE) : PcBounded t := by
  obtain ⟨hslots, hsp⟩ := hstack
  exact ⟨h, fun k hk => by rw [hslots]; exact hs.2 k (hsp ▸ hk)⟩

include hpc

theorem pcBounded_of_pc_eq_add_two (h : t.pc = s.pc + 2) : PcBounded t :=
  pcBounded_of_keepsStack hs hstack (by
    rw [h, toNat_add_of_le hpc (by decide)]
    exact Nat.le_trans (Nat.add_le_add_right hpc 2) (by decide))

theorem pcBounded_of_skip {taken : Bool} (h : t.pc = if taken then s.pc + 4 else s.pc + 2) : PcBounded t := by
  cases taken with
  | false => exact pcBounded_of_pc_eq_add_two hpc hs hstack h
  | true =>
    refine pcBounded_of_keepsStack hs hstack ?_
    rw [h, if_pos rfl, toNat_add_of_le hpc (by decide)]
    exact Nat.le_trans (Nat.add_le_add_right hpc 4) (by decide)

end Kept

theorem addressLiteral_le (nnn : BitVec 12) : (addressLiteral nnn).toNat ≤ 0x10FE := by
  rw [addressLiteral_toNat]
  omega

/-- A call pushes the address after a word in memory. -/
theorem pcBounded_call (nnn : BitVec 12) (hpc : s.pc.toNat ≤ 0xFFE) (hs : PcBounded s) :
    PcBounded (effect (.call nnn) s) := by
  refine ⟨addressLiteral_le nnn, fun k hk => ?_⟩
  have hk' : k.val < min (s.sp.val + 1) 16 := hk
  change ((s.stack.setIfInBounds s.sp.val (s.pc + 2)).get k).toNat ≤ 0x1000
  rw [Vector.get_eq_getElem, Vector.getElem_setIfInBounds]
  split
  · rw [toNat_add_of_le hpc (by decide)]
    exact Nat.add_le_add_right hpc 2
  · exact hs.2 k (by omega)

/-- A return takes one of the addresses the invariant bounds. -/
theorem pcBounded_ret (x : Reg) (hs : PcBounded s) (hsp : s.sp.val ≠ 0) : PcBounded (effect (.ret x) s) := by
  refine ⟨?_, fun k hk => ?_⟩
  · have htop := hs.2 ⟨s.sp.val - 1, by omega⟩ (by simp; omega)
    exact Nat.le_trans htop (by decide)
  · have hk' : k.val < s.sp.val - 1 := hk
    exact hs.2 k (by omega)

/-- The targets of R53, R63 to R65 and R70 stay in bounds. -/
theorem pcBounded_effect {i : Instr} (hpc : s.pc.toNat ≤ 0xFFE) (hs : PcBounded s)
    (hf : instrFault (encode i) s i = none) : PcBounded (effect i s) := by
  have kept : KeepsStack s s := ⟨rfl, rfl⟩
  cases i with
  | call nnn => exact pcBounded_call nnn hpc hs
  | ret x =>
    refine pcBounded_ret x hs fun h0 => ?_
    rw [instrFault, if_pos h0] at hf
    cases hf
  | jp nnn => exact pcBounded_of_keepsStack (t := effect (.jp nnn) s) hs kept (addressLiteral_le nnn)
  | jpV0 nnn =>
    refine pcBounded_of_keepsStack (t := effect (.jpV0 nnn) s) hs kept ?_
    have htarget := offsetTarget_toNat nnn s
    have := nnn.isLt
    have := (s.getV 0).isLt
    change (offsetTarget nnn s).toNat ≤ 0x10FE
    omega
  | seImm x nn | sneImm x nn | seReg x y n | sneReg x y n | skp x | sknp x =>
    exact pcBounded_of_skip (t := effect _ s) hpc hs kept rfl
  | ldVxK x =>
    rcases effect_ldVxK_cases x s with ⟨-, h⟩ | ⟨k, -, h⟩ <;> rw [h]
    · exact hs
    · exact pcBounded_of_pc_eq_add_two (t := (s.setV x _).advance) hpc hs kept rfl
  | _ => exact pcBounded_of_pc_eq_add_two (t := effect _ s) hpc hs kept rfl

end PcBound

/-! ### The statements -/

/-- Settles O52: a fatal error leaves a memory built in canonical form, and an effect stores below 4096 or not at
all. -/
theorem stepKeepsMemoryCanonical : Obligations.StepKeepsMemoryCanonical := by
  intro s u hs h
  have hend (t : State) (ht : MemoryInv t) : MemoryInv t.endCycle := by
    obtain ⟨-, -, -, -, -, hmem, -⟩ := t.endCycle_keeps
    rwa [MemoryInv, hmem]
  rcases step_cases h with ⟨record, -, rfl⟩ | ⟨-, -, w, -, rfl⟩ | ⟨hf, i, hi, rfl⟩
  · exact hend _ (State.raise_mem_wf _ record)
  · exact hend _ hs
  · exact hend _ (memoryInv_effect hs ((fatalCause_of_runs hi).symm.trans hf))

/-- Settles O53: a step that goes on ran at a pc of at most 0xFFE, from where every target is in bounds. -/
theorem stepKeepsThePcInBounds : Obligations.StepKeepsThePcInBounds := by
  intro s u hs h
  have hrun : s.status = .running := (step_next h).2.1
  have hend (t : State) (ht : PcBounded t) : PcInv t.endCycle := by
    obtain ⟨-, -, hpc, hstack, hsp, -⟩ := t.endCycle_keeps
    exact fun _ => by rw [hpc, hstack, hsp]; exact ht
  rcases step_cases h with ⟨record, -, rfl⟩ | ⟨-, hpc, w, -, rfl⟩ | ⟨hf, i, ⟨hready, hpc, hd⟩, rfl⟩
  · have hfault : (s.beginCycle.raise record).endCycle.status = .faulted record := by
      obtain ⟨-, -, -, -, -, -, -, -, hstatus, -⟩ := (s.beginCycle.raise record).endCycle_keeps
      exact hstatus
    constructor <;> · intro hr; rw [hfault] at hr; cases hr
  · exact ⟨hend _ (pcBounded_of_pc_eq_add_two (s := s) (by omega) (hs hrun) ⟨rfl, rfl⟩ rfl), fun _ => by omega⟩
  · have hbounded := pcBounded_effect (s := s.beginCycle) (i := i) (show s.pc.toNat ≤ 0xFFE by omega) (hs hrun)
      ((fatalCause_of_runs ⟨hready, hpc, hd⟩).symm.trans hf)
    exact ⟨hend _ hbounded, fun _ => by omega⟩

/-- Settles O54: reset lists no cell and no return address, and its pc is 0x200. -/
theorem resetMeetsTheInvariants : Obligations.ResetMeetsTheInvariants :=
  ⟨Memory.wf_reset, fun _ => ⟨by decide, fun k hk => absurd hk (Nat.not_lt_zero _)⟩⟩

end Sys2Proof.Invariants
end

section
/-! Proofs of the remaining index register and memory statements (45_memory_index.md): what several bytes stored from I
up leave to read, and what the next fetch sees of them. -/

namespace Sys2Proof.IndexMemory

open Sys2Proof.Machine Sys2Proof.Safety Sys2Proof.Effects Sys2Proof.Encoding Sys2Proof.ControlFlow

/-! ### The index register -/

theorem indexPlus_toNat (s : State) (k : Nat) : (indexPlus s k).toNat = (s.i.toNat + k) % 65536 := by
  rw [indexPlus, BitVec.toNat_ofNat]

/-- FONT_BASE is 0, so the address of a glyph is 5 times its digit (D8). -/
theorem glyphAddress_toNat (v : Byte) : (glyphAddress Config.params v).toNat = 5 * v.toNat := by
  have := v.isLt
  have hdigit : fontDigit Config.params v = v.toNat := rfl
  rw [glyphAddress, hdigit, Config.fontBase, BitVec.toNat_ofNat]
  omega

/-! ### What bytes stored from I up leave to read -/

section Stored
variable {s : State} {bs : List Byte} (hs : MemoryInv s) (hle : s.i.toNat + bs.length ≤ 4096)
include hs hle

theorem read_storedAtI_of_lt {k : Nat} (hk : k < bs.length) :
    (storedAtI bs s).read (s.i.toNat + k) = bs.getD k 0 := by
  rw [storedAtI, Memory.read_copyImage hs hle, if_pos ⟨Nat.le_add_right _ _, by omega⟩, Nat.add_sub_cancel_left]

theorem read_storedAtI_of_outside {a : Nat} (ha : a < s.i.toNat ∨ s.i.toNat + bs.length ≤ a) :
    (storedAtI bs s).read a = s.mem.read a := by
  rw [storedAtI, Memory.read_copyImage hs hle, if_neg (by omega)]

end Stored

/-! ### The digits of FX33 -/

section Digits
variable {s : State} {x : Reg} (hs : MemoryInv s) (hle : s.i.toNat + 2 < 4096)
include hs hle

theorem read_digit {k : Nat} (hk : k < 3) :
    (effect (.ldB x) s).mem.read (s.i.toNat + k) = (bcdDigits (s.getV x)).getD k 0 :=
  read_storedAtI_of_lt (bs := bcdDigits (s.getV x)) hs hle hk

theorem read_hundreds : ((effect (.ldB x) s).mem.read s.i.toNat).toNat = (s.getV x).toNat / 100 := by
  have := (s.getV x).isLt
  rw [← Nat.add_zero s.i.toNat, read_digit hs hle (by decide)]
  exact Nat.mod_eq_of_lt (by omega)

theorem read_tens : ((effect (.ldB x) s).mem.read (s.i.toNat + 1)).toNat = (s.getV x).toNat / 10 % 10 := by
  rw [read_digit hs hle (by decide)]
  exact Nat.mod_eq_of_lt (by omega)

theorem read_ones : ((effect (.ldB x) s).mem.read (s.i.toNat + 2)).toNat = (s.getV x).toNat % 10 := by
  rw [read_digit hs hle (by decide)]
  exact Nat.mod_eq_of_lt (by omega)

theorem read_besides_digits {a : Nat} (ha : a < s.i.toNat ∨ s.i.toNat + 2 < a) :
    (effect (.ldB x) s).mem.read a = s.mem.read a :=
  read_storedAtI_of_outside (bs := bcdDigits (s.getV x)) hs hle ha

end Digits

theorem ldB_noFault {x : Reg} {s : State} (h : s.i.toNat + 2 < 4096) : instrFault (encode (.ldB x)) s (.ldB x) = none :=
  if_neg fun hgt => absurd hgt.2 (by omega)

/-- An FX33 that raised no error stored all three digits. -/
theorem ldB_running {x : Reg} {s t : State} (ht : exec (.ldB x) s = .next t) (hrun : t.status = .running) :
    s.i.toNat + 2 < 4096 ∧ t = effect (.ldB x) s := by
  obtain ⟨hf, rfl⟩ := exec_running ht hrun
  exact ⟨le_of_rangeFault_eq_none (len := 3) hf (by decide), rfl⟩

/-! ### The registers of FX55 and FX65 -/

section Dump
variable {s : State} {x : Reg} (hs : MemoryInv s) (hle : s.i.toNat + x.val < 4096)
include hs hle

theorem read_dumped {r : Reg} (hr : r ≤ x) : (effect (.ldMemVx x) s).mem.read (s.i.toNat + r.val) = s.getV r := by
  have hlen := s.regsUpTo_length x
  have hr' : r.val ≤ x.val := hr
  rw [← s.regsUpTo_getD x r hr]
  exact read_storedAtI_of_lt hs (by omega) (by omega)

theorem read_besides_dumped {a : Nat} (ha : a < s.i.toNat ∨ s.i.toNat + x.val < a) :
    (effect (.ldMemVx x) s).mem.read a = s.mem.read a := by
  have hlen := s.regsUpTo_length x
  exact read_storedAtI_of_outside hs (by omega) (by omega)

end Dump

section RegisterMoves
variable {s : State} {x : Reg}

theorem ldMemVx_noFault (h : s.i.toNat + x.val < 4096) : instrFault (encode (.ldMemVx x)) s (.ldMemVx x) = none :=
  if_neg fun hgt => absurd hgt.2 (by omega)

theorem ldVxMem_noFault (h : s.i.toNat + x.val < 4096) : instrFault (encode (.ldVxMem x)) s (.ldVxMem x) = none :=
  if_neg fun hgt => absurd hgt.2 (by omega)

/-- An FX55 that raised no error stored all its registers. -/
theorem ldMemVx_running {t : State} (ht : exec (.ldMemVx x) s = .next t) (hrun : t.status = .running) :
    s.i.toNat + x.val < 4096 ∧ t = effect (.ldMemVx x) s := by
  obtain ⟨hf, rfl⟩ := exec_running ht hrun
  exact ⟨le_of_rangeFault_eq_none (len := x.val + 1) hf (Nat.succ_ne_zero _), rfl⟩

theorem getV_loaded (r : Reg) :
    (effect (.ldVxMem x) s).getV r = if r ≤ x then s.mem.read (s.i.toNat + r.val) else s.getV r := by
  change (s.loadV (bytesFromI (x.val + 1) s)).getV r = _
  rw [State.getV_loadV]
  by_cases hr : r ≤ x
  · have hr' : r.val < x.val + 1 := Nat.lt_succ_of_le hr
    simp [bytesFromI, hr, hr']
  · have hr' : ¬ r.val < x.val + 1 := fun h => hr (Nat.le_of_lt_succ h)
    simp [bytesFromI, hr, hr']

end RegisterMoves

/-! ### The fetch of the next cycle (20_memory.md R30, R40) -/

theorem fetch_endCycle {t : State} {a : Nat} (hpc : t.pc.toNat = a) (ha : a + 1 ≤ 0xFFF) :
    t.endCycle.fetch =
      .ok (BitVec.ofNat 16 ((t.mem.read a).toNat * 256 + (t.mem.read (a + 1)).toNat)) := by
  obtain ⟨-, -, hpc', -, -, hmem, -⟩ := t.endCycle_keeps
  rw [fetch_of_le (by rw [hpc', hpc]; exact ha), wordAtPc, hpc', hmem, hpc]

/-! ### The statements -/

/-- Settles O24: the flag is decided before the sum is narrowed to 16 bits, and lands where no overflow is too (D7). -/
theorem addToIndexFlagsOverflow : Obligations.AddToIndexFlagsOverflow := by
  intro x s
  have hregs (r : Reg) : (effect (.addI x) s).getV r =
      if r = 15 then flagOf (indexOverflows s.i (s.getV x)) else s.getV r := State.getV_setFlag _ r _
  refine ⟨decode_encode (i := .addI x) rfl, _, exec_of_noFault rfl, completes_complete _ _, indexPlus_toNat s _, ?_,
    fun r hr => (hregs r).trans (if_neg hr), ⟨rfl, rfl⟩, ⟨rfl, rfl⟩, fun _ => rfl, rfl, rfl⟩
  rw [hregs, if_pos rfl, indexOverflows, ArithShift.flagOf_decide]

/-- Settles O25: five rows a glyph from FONT_BASE, and no mask on the digit. -/
theorem fontAddressIsFiveTimesTheDigit : Obligations.FontAddressIsFiveTimesTheDigit := by
  intro x s
  exact ⟨decode_encode (i := .ldF x) rfl, _, exec_of_noFault rfl, completes_setI_advance _ s, glyphAddress_toNat _,
    keepsRegs_setI_advance _ s, keepsRest_setI_advance _ s⟩

/-- Settles O26: three bytes stored from I up, or the first address past memory. -/
theorem decimalDigitsAreStored : Obligations.DecimalDigitsAreStored := by
  intro x s
  refine ⟨decode_encode (i := .ldB x) rfl, fun hs hle => ?_, fun hgt => ?_⟩
  · exact ⟨_, exec_of_noFault (ldB_noFault hle), completes_complete _ _, read_hundreds hs hle, read_tens hs hle,
      read_ones hs hle, fun a h0 h1 h2 => read_besides_digits hs hle (by omega), fun _ => rfl, rfl, ⟨rfl, rfl⟩,
      ⟨rfl, rfl⟩, rfl, rfl⟩
  · exact ⟨_, exec_of_fault (if_pos ⟨by decide, by omega⟩), faults_raise _ s⟩

/-- Settles O27: V0 to VX stored from I up, or the first address past memory. -/
theorem registerDumpStoresInOrder : Obligations.RegisterDumpStoresInOrder := by
  intro x s
  refine ⟨decode_encode (i := .ldMemVx x) rfl, fun hs hle => ?_, fun hgt => ?_⟩
  · refine ⟨_, exec_of_noFault (ldMemVx_noFault hle), completes_complete _ _, indexPlus_toNat s _,
      fun r hr => read_dumped hs hle hr, fun a ha => read_besides_dumped hs hle ?_, fun _ => rfl, ⟨rfl, rfl⟩,
      ⟨rfl, rfl⟩, rfl, rfl⟩
    by_contra hin
    have hx := x.isLt
    have hr : (⟨a - s.i.toNat, by omega⟩ : Reg) ≤ x := Fin.mk_le_of_le_val (by omega)
    exact ha _ hr (show a = s.i.toNat + (a - s.i.toNat) by omega)
  · exact ⟨_, exec_of_fault (if_pos ⟨Nat.succ_ne_zero _, by omega⟩), faults_raise _ s⟩

/-- Settles O28: V0 to VX read from I up, VF like the others, or the first address past memory. -/
theorem registerLoadReadsInOrder : Obligations.RegisterLoadReadsInOrder := by
  intro x s
  refine ⟨decode_encode (i := .ldVxMem x) rfl, fun hle => ?_, fun hgt => ?_⟩
  · exact ⟨_, exec_of_noFault (ldVxMem_noFault hle), completes_complete _ _, indexPlus_toNat s _, getV_loaded,
      ⟨rfl, rfl⟩, ⟨rfl, rfl⟩, fun _ => rfl, rfl, rfl⟩
  · exact ⟨_, exec_of_fault (if_pos ⟨Nat.succ_ne_zero _, by omega⟩), faults_raise _ s⟩

/-- Settles O29: the end of the dump's cycle leaves memory alone, so the load reads at I + r what the dump wrote
there. -/
theorem dumpThenLoadRestoresTheRegisters : Obligations.DumpThenLoadRestoresTheRegisters := by
  intro x s t v hs ht hrun
  obtain ⟨hle, rfl⟩ := ldMemVx_running ht hrun
  obtain ⟨-, -, -, -, -, hmem, -⟩ := (effect (.ldMemVx x) s).endCycle_keeps
  refine ⟨_, exec_of_noFault (ldVxMem_noFault hle), rfl, fun r hr => ?_⟩
  rw [getV_loaded, if_pos hr, ← read_dumped hs hle hr]
  exact congrArg (Memory.read · _) hmem

/-- Settles O30: in each overlap the two bytes fetched are registers the dump stored or bytes it does not reach. -/
theorem fetchSeesTheWordJustStored : Obligations.FetchSeesTheWordJustStored := by
  intro x s t hs ht hrun
  obtain ⟨hle, rfl⟩ := ldMemVx_running ht hrun
  have hpc (h : s.pc.toNat ≤ 0xFFE) : (effect (.ldMemVx x) s).pc.toNat = s.pc.toNat + 2 :=
    toNat_add_of_le h (by decide)
  refine ⟨fun r r' hr hnext hr' => ?_, fun h => ?_, fun h hend => ?_⟩
  · have hrx : r'.val ≤ x.val := hr'
    have hnext' : s.pc.toNat + 2 + 1 = s.i.toNat + r'.val := by omega
    rw [fetch_endCycle (hpc (by omega)) (by omega), hnext', hr, read_dumped hs hle hr',
      read_dumped hs hle (show r.val ≤ x.val by omega)]
  · rw [fetch_endCycle (hpc (by omega)) (by omega), read_besides_dumped hs hle (by omega),
      show s.pc.toNat + 2 + 1 = s.i.toNat + (0 : Reg).val by rw [h]; rfl, read_dumped hs hle (Fin.zero_le x)]
  · have hlast := read_dumped hs hle (le_refl x)
    rw [← h] at hlast
    rw [fetch_endCycle (hpc (by omega)) hend, hlast, read_besides_dumped hs hle (a := s.pc.toNat + 2 + 1) (by omega)]

/-- Settles O31: in each overlap the two bytes fetched are digits just stored or bytes the store does not reach. -/
theorem fetchSeesTheDigitsJustStored : Obligations.FetchSeesTheDigitsJustStored := by
  intro x s t hs ht hrun
  obtain ⟨hle, rfl⟩ := ldB_running ht hrun
  have hpc (h : s.pc.toNat ≤ 0xFFE) : (effect (.ldB x) s).pc.toNat = s.pc.toNat + 2 :=
    toNat_add_of_le h (by decide)
  refine ⟨fun h => ?_, fun h => ?_, fun h => ?_, fun h hend => ?_⟩
  · rw [fetch_endCycle (hpc (by omega)) (by omega), h, read_hundreds hs hle, read_tens hs hle]
  · rw [fetch_endCycle (hpc (by omega)) (by omega), h, read_tens hs hle, read_ones hs hle]
  · rw [fetch_endCycle (hpc (by omega)) (by omega), read_besides_digits hs hle (by omega),
      show s.pc.toNat + 2 + 1 = s.i.toNat from h, read_hundreds hs hle]
  · have hlast := read_ones (x := x) hs hle
    rw [← h] at hlast
    rw [fetch_endCycle (hpc (by omega)) hend, hlast, read_besides_digits hs hle (a := s.pc.toNat + 2 + 1) (by omega)]

end Sys2Proof.IndexMemory
end

section
/-! Proofs of the remaining timer and key statements (46_timers_keys.md): the timer read in the next cycle, the key wait
and the key skips. -/

namespace Sys2Proof.TimersKeys

open Sys2Proof.Machine Sys2Proof.Safety Sys2Proof.Effects Sys2Proof.Encoding Sys2Proof.ControlFlow

/-! ### Which key the wait takes (R93, D11) -/

section PickKey
variable {s : State}

theorem pickKey_eq_find? : s.pickKey Config.params = (List.finRange 16).find? fun k => s.keyPressed k.val :=
  List.head?_filter

theorem pickKey_eq_none (h : ∀ k, k < 16 → s.input.keys.getLsbD k = false) : s.pickKey Config.params = none := by
  rw [pickKey_eq_find?, List.find?_eq_none]
  exact fun k _ => Bool.not_eq_true _ ▸ h k.val k.isLt

theorem pickKey_eq_some {k : Key} (hk : s.input.keys.getLsbD k.val = true)
    (hlow : ∀ j, j < k.val → s.input.keys.getLsbD j = false) : s.pickKey Config.params = some k := by
  rw [pickKey_eq_find?, List.find?_eq_some_iff_getElem]
  refine ⟨hk, k.val, by simp, by simp, fun j hj => ?_⟩
  simpa [State.keyPressed] using hlow j hj

end PickKey

/-! ### The statements -/

/-- Settles O33: the tick of the setting cycle counts down what the next cycle reads. -/
theorem timerReadsOneLessInTheNextCycle : Obligations.TimerReadsOneLessInTheNextCycle := by
  intro x y s t ht
  rw [exec_ldDtVx, Host.Outcome.next.injEq] at ht
  refine ⟨_, exec_ldVxDt y _, ?_⟩
  have hticked : TickedTo t.dt t.endCycle.dt := tickedTo_endCycle_dt (by rw [← ht]; rfl)
  have hread : ((t.endCycle.beginCycle.setV y t.endCycle.dt).advance).getV y = t.endCycle.dt :=
    LoadCompute.getV_of_writesReg (LoadCompute.writesReg_setV_advance y _ _)
  have hdt : t.dt = s.getV x := by rw [← ht]; rfl
  rw [State.beginCycle_dt, hread, ← hdt]
  exact hticked

/-- Settles O34: the keys pressed, lowest first, are empty or begin with the lowest. -/
theorem keyWaitTakesTheLowestKey : Obligations.KeyWaitTakesTheLowestKey := by
  intro x s
  refine ⟨decode_encode (i := .ldVxK x) rfl, fun hnone => ?_, fun k hk hpressed hlow => ?_⟩
  · rw [exec_of_noFault rfl, effect, pickKey_eq_none hnone]
    rfl
  · have hpick : s.pickKey Config.params = some ⟨k, hk⟩ := pickKey_eq_some hpressed hlow
    refine ⟨_, exec_of_noFault rfl, ?_⟩
    rw [effect, hpick]
    exact ⟨LoadCompute.completes_setV_advance x _ s, LoadCompute.writesReg_setV_advance x _ s,
      LoadCompute.keepsAllButRegs_setV_advance x _ s⟩

/-- Settles O35: an index of 16 or more is the table's fault; below, both skips test the one key. -/
theorem skipOnAKey : Obligations.SkipOnAKey := by
  intro x s
  refine ⟨⟨decode_encode (i := .skp x) rfl, decode_encode (i := .sknp x) rfl⟩, fun hkey => ?_, fun hout => ?_⟩
  · have hno {op : Word} : keyFault op x s = none := if_neg (Nat.not_le.2 hkey)
    refine ⟨⟨_, exec_of_noFault hno, keepsAllButPc_skipIf _ s, completes_skipIf Iff.rfl s⟩, _, exec_of_noFault hno,
      keepsAllButPc_skipIf _ s, ?_⟩
    rw [← ite_not]
    exact completes_skipIf (by simp [State.keyPressed]) s
  · exact ⟨⟨_, exec_of_fault (if_pos hout), faults_raise _ s⟩, _, exec_of_fault (if_pos hout), faults_raise _ s⟩

end Sys2Proof.TimersKeys
end

section
/-! Proofs of the display statements (47_display.md): the cleared screen, the sprite a draw inverts, and two draws of
one sprite, with the refutation of the second sentence of R98 (a) (entry 20). -/

namespace Sys2Proof.Display

open Sys2Proof.Machine Sys2Proof.Safety Sys2Proof.Effects Sys2Proof.Encoding Sys2Proof.ControlFlow

/-! ### The sprite of a draw -/

section Sprite
variable (x y : Reg) (n : BitVec 4) (s : State)

theorem bytesFromI_length (k : Nat) : (bytesFromI k s).length = k := by simp [bytesFromI]

theorem bytesFromI_getD {k r : Nat} (h : r < k) : (bytesFromI k s).getD r 0 = s.mem.read (s.i.toNat + r) := by
  simp [bytesFromI, h]

/-- The rows read from memory cover the pixels the statements call the sprite. -/
theorem rowsBit_eq_spriteOf :
    rowsBit (drawColumn x s) (drawRowStart y s) (bytesFromI n.toNat s) = spriteOf x y n s := by
  funext px py
  have hcol : spriteColumn (drawColumn x s) px = (px.val + 64 - (s.getV x).toNat % 64) % 64 := by
    rw [spriteColumn, drawColumn, Nat.mod_mod]
  have hrow : spriteRow (drawRowStart y s) py = (py.val + 32 - (s.getV y).toNat % 32) % 32 := by
    rw [spriteRow, drawRowStart, Nat.mod_mod]
  rw [rowsBit, hcol, hrow, bytesFromI_length, spriteOf, spriteBit]
  by_cases hr : (py.val + 32 - (s.getV y).toNat % 32) % 32 < n.toNat
  · rw [bytesFromI_getD s hr]
  · simp [hr]

/-- A draw inverts exactly the sprite's pixels (R97). -/
theorem drawnSprite_draws : DrawsMask (spriteOf x y n s) (s.fb, false) (drawnSprite x y n s) := by
  have hlen : (bytesFromI n.toNat s).length ≤ 32 := by
    rw [bytesFromI_length]
    exact Nat.le_of_lt (Nat.lt_of_lt_of_le n.isLt (by decide))
  rw [← rowsBit_eq_spriteOf]
  exact drawRows_draws _ _ _ _ hlen

theorem pixel_drawn (px : Fin 64) (py : Fin 32) :
    pixel (effect (.drw x y n) s).fb px py = (pixel s.fb px py ^^ spriteOf x y n s px py) :=
  (drawnSprite_draws x y n s).1 px py

theorem collision_iff :
    (drawnSprite x y n s).2 = true ↔ ∃ px py, spriteOf x y n s px py = true ∧ pixel s.fb px py = true := by
  rw [(drawnSprite_draws x y n s).2]
  simp

theorem getV_drawn (r : Reg) :
    (effect (.drw x y n) s).getV r = if r = 15 then flagOf (drawnSprite x y n s).2 else s.getV r :=
  State.getV_setFlag _ r _

/-- VF after a draw is 1 exactly on a collision. -/
theorem getV_drawn_flag_iff : (effect (.drw x y n) s).getV 15 = 1 ↔
    ∃ px py, spriteOf x y n s px py = true ∧ pixel s.fb px py = true := by
  rw [getV_drawn, if_pos rfl, ← collision_iff]
  cases (drawnSprite x y n s).2 <;> simp [flagOf]

theorem drw_noFault (h : n.toNat = 0 ∨ s.i.toNat + n.toNat ≤ 4096) :
    instrFault (encode (.drw x y n)) s (.drw x y n) = none := if_neg (by omega)

end Sprite

/-! ### A second draw of the same sprite (R98) -/

section Twice
variable {x y : Reg} {n : BitVec 4} {s : State}

/-- The end of the first draw's cycle leaves the sprite's bytes and, where the flag missed them, its place. -/
theorem spriteOf_endCycle_drawn
    (hx : ((effect (.drw x y n) s).getV x).toNat % 64 = (s.getV x).toNat % 64)
    (hy : ((effect (.drw x y n) s).getV y).toNat % 32 = (s.getV y).toNat % 32) :
    spriteOf x y n (effect (.drw x y n) s).endCycle = spriteOf x y n s := by
  obtain ⟨hv, hi, -, -, -, hmem, -⟩ := (effect (.drw x y n) s).endCycle_keeps
  have hregs (r : Reg) : (effect (.drw x y n) s).endCycle.getV r = (effect (.drw x y n) s).getV r := by
    rw [State.getV, hv, State.getV]
  funext px py
  rw [spriteOf, spriteOf, spriteBit, spriteBit, hregs, hregs, hx, hy, hmem, hi]
  rfl

theorem exec_drw_endCycle (h : instrFault (encode (.drw x y n)) s (.drw x y n) = none) :
    exec (.drw x y n) (effect (.drw x y n) s).endCycle =
      .next (effect (.drw x y n) (effect (.drw x y n) s).endCycle) := by
  obtain ⟨-, hi, -⟩ := (effect (.drw x y n) s).endCycle_keeps
  have hi' : (effect (.drw x y n) s).endCycle.i = s.i := hi
  refine exec_of_noFault (drw_noFault x y n _ ?_)
  rcases rangeFault_cases (encode (.drw x y n)) n.toNat s with ⟨-, -, hf⟩ | ⟨hle, -⟩
  · rw [instrFault, hf] at h; cases h
  · rw [hi']; exact hle.symm

end Twice

/-! ### The statements -/

/-- Settles O37: every pixel of a blank framebuffer is 0. -/
theorem clearScreenClearsEveryPixel : Obligations.ClearScreenClearsEveryPixel := by
  intro x s
  exact ⟨decode_encode (i := .cls x) rfl, _, exec_of_noFault rfl, completes_complete _ _, pixel_blank, rfl,
    fun _ => rfl, rfl, ⟨rfl, rfl⟩, ⟨rfl, rfl⟩, fun _ => rfl⟩

/-- Settles O38: the compositor's rule on the rows read from I, or the first address past memory. -/
theorem drawInvertsExactlyTheSprite : Obligations.DrawInvertsExactlyTheSprite := by
  intro x y n s
  refine ⟨decode_encode (i := .drw x y n) rfl, fun hle => ?_, fun h0 hgt => ?_⟩
  · refine ⟨_, exec_of_noFault (drw_noFault x y n s hle), completes_complete _ _, pixel_drawn x y n s,
      (getV_drawn_flag_iff x y n s).2, fun hclear => ?_, rfl, fun r hr => (getV_drawn x y n s r).trans (if_neg hr), rfl,
      ⟨rfl, rfl⟩, ⟨rfl, rfl⟩, fun _ => rfl⟩
    have hno : (drawnSprite x y n s).2 = false := by
      rw [← Bool.not_eq_true, collision_iff]
      rintro ⟨px, py, hbit, hlit⟩
      rw [hclear px py hbit] at hlit
      cases hlit
    rw [getV_drawn, if_pos rfl, hno]
    rfl
  · exact ⟨_, exec_of_fault (if_pos ⟨h0, hgt⟩), faults_raise _ s⟩

/-- Settles O39: the second draw inverts what the first inverted, and finds a 1 exactly where the first found a 0. -/
theorem drawingTwiceRestoresEveryPixel : Obligations.DrawingTwiceRestoresEveryPixel := by
  intro x y n s t ht hrun hx hy
  obtain ⟨hf, rfl⟩ := exec_running ht hrun
  have hsprite := spriteOf_endCycle_drawn hx hy
  have hpixel (px : Fin 64) (py : Fin 32) : pixel (effect (.drw x y n) s).endCycle.fb px py =
      (pixel s.fb px py ^^ spriteOf x y n s px py) := by
    obtain ⟨-, -, -, -, -, -, hfb, -⟩ := (effect (.drw x y n) s).endCycle_keeps
    rw [hfb, pixel_drawn]
  refine ⟨_, exec_drw_endCycle hf, fun px py => ?_, ?_⟩
  · rw [pixel_drawn, hsprite, hpixel, Bool.xor_assoc, Bool.xor_self, Bool.xor_false]
  · rw [getV_drawn_flag_iff, hsprite]
    refine exists_congr fun px => exists_congr fun py => and_congr_right fun hbit => ?_
    rw [hpixel, hbit]
    simp

/-- Reset with every pixel lit: the row at I = 0 is the font's first, 0xF0. -/
def litScreen : State := { State.reset with fb := Vector.replicate 32 (Vector.replicate 64 true) }

theorem pixel_litScreen (px : Fin 64) (py : Fin 32) : pixel litScreen.fb px py = true := by
  simp [pixel, litScreen, Vector.get_eq_getElem]

/-- Refutes O40: on a lit screen the first draw clears every pixel under the sprite, and the second meets no 1. -/
theorem not_secondDrawCollidesWheneverTheSpriteHasABit :
    ¬ Obligations.SecondDrawCollidesWheneverTheSpriteHasABit := by
  intro h
  have hfirst : exec (.drw 0 1 1) litScreen = .next (effect (.drw 0 1 1) litScreen) := exec_of_noFault (by decide)
  have hplace (r : Reg) (hr : r ≠ 15) : (effect (.drw 0 1 1) litScreen).getV r = litScreen.getV r :=
    (getV_drawn 0 1 1 litScreen r).trans (if_neg hr)
  have hx := congrArg (·.toNat % 64) (hplace 0 (by decide))
  have hy := congrArg (·.toNat % 32) (hplace 1 (by decide))
  obtain ⟨u, hsecond, -, hcollides⟩ := drawingTwiceRestoresEveryPixel 0 1 1 litScreen _ hfirst rfl hx hy
  have hbit : spriteOf 0 1 1 litScreen 0 0 = true := by decide
  obtain ⟨px, py, -, hdark⟩ := hcollides.1 ((h 0 1 1 litScreen _ u hfirst rfl hx hy hsecond).2 ⟨0, 0, hbit⟩)
  rw [pixel_litScreen] at hdark
  cases hdark

end Sys2Proof.Display
end

section
/-! Proofs of the statements over all instructions: what each may write, the flags, and what no instruction reads. Each
is a case analysis of the effects, an error having been excluded. -/

namespace Sys2Proof.AllInstructions

open Sys2Proof.Machine Sys2Proof.Safety Sys2Proof.Effects

/-! ### What an effect writes (10_state.md R14 to R20) -/

section Writes
variable {i : Instr} {s : State}

theorem getV_setV_of_ne {x r : Reg} {b : Byte} (h : (r == x) = false) : (s.setV x b).getV r = s.getV r := by
  rw [State.getV_setV, if_neg (beq_eq_false_iff_ne.1 h)]

theorem getV_setFlag_of_ne {r : Reg} {b : Byte} (h : (r == 15) = false) : (s.setFlag b).getV r = s.getV r :=
  getV_setV_of_ne h

theorem getV_result_of_ne {x r : Reg} {b flag : Byte} (h : (r == x || r == 15) = false) :
    ((s.setV x b).setFlag flag).getV r = s.getV r := by
  obtain ⟨hx, h15⟩ := Bool.or_eq_false_iff.1 h
  rw [getV_setFlag_of_ne h15, getV_setV_of_ne hx]

theorem effect_getV {r : Reg} (h : mayWriteReg i r = false) : (effect i s).getV r = s.getV r := by
  cases i with
  | ldImm x _ | addImm x _ | rnd x _ | ldVxDt x | ldReg x _ | orReg x _ | andReg x _ | xorReg x _ =>
    exact getV_setV_of_ne h
  | addReg x y | sub x y | shr x y | subn x y | shl x y => exact getV_result_of_ne h
  | drw _ _ _ | addI _ => exact getV_setFlag_of_ne h
  | ldVxMem x => exact (IndexMemory.getV_loaded r).trans (if_neg (of_decide_eq_false h))
  | ldVxK x =>
    rcases effect_ldVxK_cases x s with ⟨-, he⟩ | ⟨k, -, he⟩ <;> rw [he]
    · rfl
    · exact getV_setV_of_ne h
  | _ => rfl

theorem effect_i (h : writesIndex i = false) : (effect i s).i = s.i := by
  cases i with
  | ldI _ | ldF _ | addI _ | ldMemVx _ | ldVxMem _ => cases h
  | ldVxK x => obtain ⟨_, _, _, he⟩ := effect_ldVxK_form x s; rw [he]
  | _ => rfl

theorem keepsStack_effect (h : writesStack i = false) : KeepsStack s (effect i s) := by
  cases i with
  | call _ | ret _ => cases h
  | ldVxK x => obtain ⟨_, _, _, he⟩ := effect_ldVxK_form x s; rw [he]; exact ⟨rfl, rfl⟩
  | _ => exact ⟨rfl, rfl⟩

theorem keepsDisplay_effect (h : writesDisplay i = false) : KeepsDisplay s (effect i s) := by
  cases i with
  | cls _ | drw _ _ _ => cases h
  | ldVxK x => obtain ⟨_, _, _, he⟩ := effect_ldVxK_form x s; rw [he]; exact ⟨rfl, rfl⟩
  | _ => exact ⟨rfl, rfl⟩

theorem effect_dirty (h : writesDisplay i = true) : (effect i s).dirty = true := by
  cases i with
  | cls _ | drw _ _ _ => rfl
  | _ => cases h

theorem effect_dt (h : ∀ x, i ≠ .ldDtVx x) : (effect i s).dt = s.dt := by
  cases i with
  | ldDtVx x => exact absurd rfl (h x)
  | ldVxK x => obtain ⟨_, _, _, he⟩ := effect_ldVxK_form x s; rw [he]
  | _ => rfl

theorem effect_st (h : ∀ x, i ≠ .ldStVx x) : (effect i s).st = s.st := by
  cases i with
  | ldStVx x => exact absurd rfl (h x)
  | ldVxK x => obtain ⟨_, _, _, he⟩ := effect_ldVxK_form x s; rw [he]
  | _ => rfl

/-! ### The flags (R15) -/

theorem flagOf_zero_or_one (c : Bool) : flagOf c = 0 ∨ flagOf c = 1 := by cases c <;> decide

theorem flag_of_setFlag {flag : Byte} (h : flag = 0 ∨ flag = 1) :
    (s.setFlag flag).getV 15 = 0 ∨ (s.setFlag flag).getV 15 = 1 := by
  rwa [State.getV_setFlag, if_pos rfl]

theorem effect_flag (h : writesFlag i = true) : (effect i s).getV 15 = 0 ∨ (effect i s).getV 15 = 1 := by
  cases i with
  | addReg _ _ | sub _ _ | subn _ _ | drw _ _ _ | addI _ => exact flag_of_setFlag (flagOf_zero_or_one _)
  | shr x y =>
    refine flag_of_setFlag ?_
    rw [ArithShift.shrFlag_eq]
    split <;> simp
  | shl x y =>
    refine flag_of_setFlag ?_
    rw [ArithShift.shlFlag_eq]
    split <;> simp
  | _ => cases h

end Writes

/-! ### What no effect reads -/

/-- RND, the one reader of the random byte (44_random.md R83). -/
def readsRandom : Instr → Bool
  | .rnd _ _ => true
  | _ => false

/-- The readers of the keys (R22). -/
def readsKeys : Instr → Bool
  | .ldVxK _ | .skp _ | .sknp _ => true
  | _ => false

/-- Another script of inputs. -/
def withInputs (inputs : List CycleInput) (s : State) : State := { s with inputs := inputs }

section Reads
variable {i : Instr} {s : State}

/-- An instruction does the same under another script that agrees on the inputs it reads in this cycle. -/
theorem effect_withInputs {inputs : List CycleInput}
    (hrandom : readsRandom i = true → (withInputs inputs s).input.rand8 = s.input.rand8)
    (hkeys : readsKeys i = true → (withInputs inputs s).input.keys = s.input.keys) :
    effect i (withInputs inputs s) = withInputs inputs (effect i s) := by
  have hpressed (h : readsKeys i = true) : (withInputs inputs s).keyPressed = s.keyPressed := by
    funext k
    rw [State.keyPressed, hkeys h, State.keyPressed]
  cases i with
  | rnd x nn =>
    simp only [effect, hrandom rfl]
    rfl
  | skp x | sknp x =>
    simp only [effect, hpressed rfl]
    rfl
  | ldVxK x =>
    have hpick : (withInputs inputs s).pickKey Config.params = s.pickKey Config.params := by
      rw [TimersKeys.pickKey_eq_find?, TimersKeys.pickKey_eq_find?, hpressed rfl]
    simp only [effect, hpick]
    cases s.pickKey Config.params <;> rfl
  | _ => rfl

theorem exec_withInputs {t : State} {inputs : List CycleInput} (h : exec i s = .next t) (hrun : t.status = .running)
    (hrandom : readsRandom i = true → (withInputs inputs s).input.rand8 = s.input.rand8)
    (hkeys : readsKeys i = true → (withInputs inputs s).input.keys = s.input.keys) :
    exec i (withInputs inputs s) = .next (withInputs inputs t) := by
  obtain ⟨hf, rfl⟩ := exec_running h hrun
  have hf' : instrFault (encode i) (withInputs inputs s) i = instrFault (encode i) s i := by cases i <;> rfl
  rw [exec_of_noFault (hf'.trans hf), effect_withInputs hrandom hkeys]

/-- Another sound timer, redraw flag and outputs of the cycle before (R26). -/
def withHostState (st : Byte) (dirty beep : Bool) (out : CycleStatus) (s : State) : State :=
  { s with st := st, dirty := dirty, beep := beep, statusOut := out }

/-- The two states are the same to a program. -/
def SameToPrograms (u t : State) : Prop :=
  u.v = t.v ∧ u.i = t.i ∧ u.pc = t.pc ∧ u.stack = t.stack ∧ u.sp = t.sp ∧ u.dt = t.dt ∧ u.mem = t.mem ∧ u.fb = t.fb ∧
    u.status = t.status

theorem effect_withHostState (st : Byte) (dirty beep : Bool) (out : CycleStatus) :
    SameToPrograms (effect i (withHostState st dirty beep out s)) (effect i s) := by
  cases i with
  | ldVxK x =>
    have hpick : (withHostState st dirty beep out s).pickKey Config.params = s.pickKey Config.params := rfl
    simp only [effect, hpick]
    cases s.pickKey Config.params <;> exact ⟨rfl, rfl, rfl, rfl, rfl, rfl, rfl, rfl, rfl⟩
  | _ => exact ⟨rfl, rfl, rfl, rfl, rfl, rfl, rfl, rfl, rfl⟩

end Reads

/-! ### The statements -/

/-- Settles O20: the seven compute their flag with `flagOf`, or as the one bit a shift pushes out. -/
theorem onlySevenInstructionsWriteAFlag : Obligations.OnlySevenInstructionsWriteAFlag := by
  intro i s t ht hrun
  obtain ⟨-, rfl⟩ := exec_running ht hrun
  exact ⟨effect_flag, fun _ => effect_getV⟩

/-- Settles O22: the two scripts agree on the keys, and only RND reads what they differ in. -/
theorem onlyRandomReadsTheRandomByte : Obligations.OnlyRandomReadsTheRandomByte := by
  intro i s t input rest byte hi hin ht hrun
  refine exec_withInputs ht hrun (fun h => ?_) (fun _ => by rw [State.input, State.input, hin]; rfl)
  cases i with
  | rnd x nn => exact absurd rfl (hi x nn)
  | _ => cases h

/-- Settles O36: the two scripts agree on the random byte, and only the three key instructions read the keys. -/
theorem onlyKeyInstructionsReadTheKeys : Obligations.OnlyKeyInstructionsReadTheKeys := by
  intro i s t input rest keys hi hin ht hrun
  refine exec_withInputs ht hrun (fun _ => by rw [State.input, State.input, hin]; rfl) (fun h => ?_)
  cases i with
  | ldVxK x => exact absurd rfl (hi x).1
  | skp x => exact absurd rfl (hi x).2.1
  | sknp x => exact absurd rfl (hi x).2.2
  | _ => cases h

/-- Settles O50: each part of the state in turn, over the effects of all instructions. -/
theorem onlyTheNamedInstructionsWrite : Obligations.OnlyTheNamedInstructionsWrite := by
  intro i s t ht hrun
  obtain ⟨-, rfl⟩ := exec_running ht hrun
  obtain ⟨hstatus, hsession⟩ := keepsSession_effect i s
  exact ⟨fun r => effect_getV, effect_i, keepsStack_effect, Invariants.effect_mem, keepsDisplay_effect, effect_dt,
    effect_st, hstatus.symm.trans hrun, hsession⟩

/-- Settles O51: no effect, and no fault of the table, depends on the host's state. -/
theorem hostOnlyStateIsNeverRead : Obligations.HostOnlyStateIsNeverRead := by
  intro i s t st dirty beep out ht hrun
  obtain ⟨hf, rfl⟩ := exec_running ht hrun
  have hf' : instrFault (encode i) (withHostState st dirty beep out s) i = instrFault (encode i) s i := by
    cases i <;> rfl
  exact ⟨_, exec_of_noFault (hf'.trans hf), effect_withHostState st dirty beep out⟩

end Sys2Proof.AllInstructions
end

section
/-! Proofs of the statements about the cycle (40_cycle.md, 60_exceptions.md): its start and end, the tick, the Unknown
word, the key wait, and the fatal errors with their report. -/

namespace Sys2Proof.Cycle

open Sys2Proof.Machine Sys2Proof.Safety Sys2Proof.Effects

/-! ### The end of a cycle, by its status (R57) -/

section EndCycle
variable {t : State}

theorem endCycle_eq :
    t.endCycle = { t with dt := t.endCycle.dt, st := t.endCycle.st, beep := t.endCycle.beep,
                          inputs := t.inputs.tail, cycle := t.cycle + 1 } := by
  unfold State.endCycle
  split <;> rfl

theorem endCycle_statusOut : t.endCycle.statusOut = t.statusOut := by
  obtain ⟨-, -, -, -, -, -, -, -, -, hout, -⟩ := t.endCycle_keeps
  exact hout

theorem endCycle_status : t.endCycle.status = t.status := by
  obtain ⟨-, -, -, -, -, -, -, -, hstatus, -⟩ := t.endCycle_keeps
  exact hstatus

theorem endCycle_dirty : t.endCycle.dirty = t.dirty := by
  obtain ⟨-, -, -, -, -, -, -, hdirty, -⟩ := t.endCycle_keeps
  exact hdirty

theorem endCycle_fb : t.endCycle.fb = t.fb := by
  obtain ⟨-, -, -, -, -, -, hfb, -⟩ := t.endCycle_keeps
  exact hfb

theorem endCycle_load : t.endCycle.load = t.load := by
  obtain ⟨-, -, -, -, -, -, -, -, -, -, hload⟩ := t.endCycle_keeps
  exact hload

/-- A cycle that waits for a key or is fatal does not tick (D10). -/
theorem endCycle_of_no_tick (h : ticks Config.params t.statusOut = false) (hbeep : t.beep = false) :
    t.endCycle.dt = t.dt ∧ t.endCycle.st = t.st ∧ t.endCycle.beep = false := by
  rw [t.endCycle_quiet h]
  exact ⟨rfl, rfl, hbeep⟩

end EndCycle

/-! ### A fatal error's record (60_exceptions.md R99, R100) -/

section Record
variable {s : State} {op : Word} {i : Instr} {record : FaultRecord}

theorem rangeFault_record {len : Nat} (h : rangeFault op len s = some record) :
    record.pc = s.pc ∧ record.op = some op := by
  obtain ⟨-, ⟨⟩⟩ := Option.ite_none_right_eq_some.1 h
  exact ⟨rfl, rfl⟩

theorem keyFault_record {x : Reg} (h : keyFault op x s = some record) : record.pc = s.pc ∧ record.op = some op := by
  obtain ⟨-, ⟨⟩⟩ := Option.ite_none_right_eq_some.1 h
  exact ⟨rfl, rfl⟩

theorem instrFault_record (h : instrFault op s i = some record) : record.pc = s.pc ∧ record.op = some op := by
  cases i with
  | call _ | ret _ =>
    obtain ⟨-, ⟨⟩⟩ := Option.ite_none_right_eq_some.1 h
    exact ⟨rfl, rfl⟩
  | drw _ _ _ | ldB _ | ldMemVx _ | ldVxMem _ => exact rangeFault_record h
  | skp _ | sknp _ => exact keyFault_record h
  | _ => cases h

/-- The record names the pc, and the word where one was fetched. -/
theorem fatalCause_record (h : fatalCause s = some record) :
    record.pc = s.pc ∧ (s.pc.toNat + 1 ≤ 0xFFF → record.op = some (wordAtPc s)) := by
  unfold fatalCause at h
  split at h
  · next hpc =>
    cases h
    exact ⟨rfl, fun hle => absurd hle (by omega)⟩
  · split at h
    · cases h
    · obtain ⟨hpc, hop⟩ := instrFault_record h
      exact ⟨hpc, fun _ => hop⟩

end Record

/-! ### The statements -/

/-- Settles O41: every instruction answers, and the cycle around it is the step. -/
theorem stepRunsTheDecodedInstruction : Obligations.StepRunsTheDecodedInstruction := by
  intro s i h
  obtain ⟨t, ht⟩ := exec_answers i s.beginCycle
  exact ⟨rfl, t, ht, step_of_runs h ht, endCycle_eq⟩

/-- Settles O42: the beep is clear when the cycle's end begins, and the status it finds decides whether it ticks. -/
theorem tickFollowsEveryExecutedInstruction : Obligations.TickFollowsEveryExecutedInstruction := by
  intro s i h
  obtain ⟨t, ht⟩ := exec_answers i s.beginCycle
  obtain ⟨hout, hbeep, -⟩ := exec_outcome ht
  have hcases : t.statusOut = .executed ∨ t.statusOut = .awaitingInput ∨ ∃ record, t.statusOut = .fatal record := by
    rcases hout with ⟨record, rfl⟩ | ⟨-, hexec | hwait⟩
    · exact .inr (.inr ⟨record, rfl⟩)
    · exact .inl hexec
    · exact .inr (.inl hwait)
  refine ⟨t, t.endCycle, ht, step_of_runs h ht, fun hexec => ⟨?_, TimersKeys.tickedTo_endCycle_dt hexec,
    TimersKeys.tickedTo_endCycle_st hexec, TimersKeys.endCycle_beep_iff hexec hbeep⟩, fun hne => ?_, hcases⟩
  · rw [statusOutPort, endCycle_statusOut, hexec]
  · refine endCycle_of_no_tick ?_ hbeep
    rcases hcases with hexec | hwait | ⟨record, hfatal⟩
    · exact absurd hexec hne
    · rw [hwait]; rfl
    · rw [hfatal]; rfl

/-- Settles O43: an Unknown names its own word, and its cycle ticks like an executed one. -/
theorem unknownWordIsAReportedNoOp : Obligations.UnknownWordIsAReportedNoOp := by
  intro s w hs hpc hd
  obtain ⟨rfl, -⟩ := (Encoding.unknownWordsAreExactlyTheListed _ _ _).1 hd
  refine ⟨_, step_of_unknown hs hpc hd, ?_⟩
  rw [State.endCycle_ticking _ rfl]
  refine ⟨rfl, rfl, rfl, rfl, rfl, hs.2, fun _ => rfl, rfl, ⟨rfl, rfl⟩, fun _ => rfl, rfl, rfl,
    TimersKeys.tickedTo_countDown _, TimersKeys.tickedTo_countDown _, ?_⟩
  exact ite_eq_left_iff.trans (by simp)

/-- Settles O44: two bytes put together lose no bit, and a fetch past 0xFFE is the cycle's fatal error. -/
theorem fetchIsBigEndianOrFatal : Obligations.FetchIsBigEndianOrFatal := by
  intro s
  refine ⟨fun hle => ⟨_, fetch_of_le hle, wordOfBytes_toNat _ _⟩, fun hs hgt => ⟨_, step_of_fetch_gt hs hgt, ?_⟩⟩
  rw [State.endCycle_quiet _ rfl]
  exact ⟨⟨rfl, rfl, rfl⟩, rfl⟩

/-- Settles O45: the wait changes the status output alone, and with that status the cycle's end does not tick. -/
theorem keyWaitCycleChangesNothing : Obligations.KeyWaitCycleChangesNothing := by
  intro s x h hkeys
  obtain ⟨-, hwait, -⟩ := TimersKeys.keyWaitTakesTheLowestKey x s.beginCycle
  refine ⟨_, step_of_runs h (hwait hkeys), ?_⟩
  rw [State.endCycle_quiet _ rfl]
  exact ⟨rfl, fun _ => rfl, rfl, ⟨rfl, rfl⟩, ⟨rfl, rfl⟩, fun _ => rfl, rfl, rfl, rfl, rfl, rfl, rfl⟩

/-- Settles O46: the loader's status is checked first, then the run status; a cycle always answers. -/
theorem cyclesNeedALoadedRunningBlock : Obligations.CyclesNeedALoadedRunningBlock := by
  intro s
  refine ⟨fun hload => ?_, fun record hload hfaulted => ?_, fun hs => ?_⟩
  · unfold step
    cases h : s.load with
    | loaded => exact absurd h hload
    | awaitingImage | tooLarge _ => rfl
  · simp only [step, hload, hfaulted]
  · rw [step_running hs.1 hs.2]
    rcases runCycle_cases s with ⟨_, -, h⟩ | ⟨_, -, ⟨_, -, h⟩ | ⟨_, _, -, -, h⟩⟩ <;> exact ⟨_, h⟩

/-- Settles O47: a step raises the error of the table, or has an effect that leaves the run status alone. -/
theorem fatalErrorsAreExactlyTheListed : Obligations.FatalErrorsAreExactlyTheListed := by
  intro s u h
  have hrun : s.status = .running := (step_next h).2.1
  rcases step_cases h with ⟨record, hf, rfl⟩ | ⟨hf, -, w, -, rfl⟩ | ⟨hf, i, -, rfl⟩ <;> rw [hf, endCycle_status]
  · rfl
  · exact hrun
  · exact (keepsSession_effect i s.beginCycle).1.trans hrun

/-- Settles O48: of the three kinds of step only the fatal one leaves Faulted, and its record is the table's. -/
theorem fatalCycleIsReportedAndTerminal : Obligations.FatalCycleIsReportedAndTerminal := by
  intro s u record h hfaulted
  obtain ⟨hload, -, -⟩ := step_next h
  have hcause := fatalErrorsAreExactlyTheListed s u h
  rcases step_cases h with ⟨record', hf, rfl⟩ | ⟨hf, -⟩ | ⟨hf, -⟩ <;> rw [hf, hfaulted] at hcause
  · cases hcause
    obtain ⟨hpc, hop⟩ := fatalCause_record hf
    obtain ⟨-, hstop, -⟩ := cyclesNeedALoadedRunningBlock (s.beginCycle.raise record).endCycle
    refine ⟨?_, ?_, ?_, ?_, ?_, ?_, ?_, ?_, hstop record (endCycle_load.trans hload) hfaulted⟩
    all_goals rw [State.endCycle_quiet _ rfl]
    · rfl
    · rfl
    · rfl
    · rfl
    · exact congrArg some hpc
    · rfl
    · exact fun hle => congrArg (fun o => some (Option.getD o _)) (hop hle)
    · rintro pc op index rfl
      rfl
  · cases hcause
  · cases hcause

/-- Settles O49: the clear comes before the instruction, and only CLS and DRW touch the display. -/
theorem dirtyAfterACycle : Obligations.DirtyAfterACycle := by
  intro s u h hrun
  rcases step_cases h with ⟨record, -, rfl⟩ | ⟨-, -, w, hd, rfl⟩ | ⟨-, i, ⟨-, -, hd⟩, rfl⟩
  · rw [endCycle_status] at hrun
    cases hrun
  · rw [endCycle_dirty, endCycle_fb, hd]
    exact ⟨nofun, fun _ => ⟨rfl, rfl⟩⟩
  · rw [endCycle_dirty, endCycle_fb, hd]
    refine ⟨?_, fun hno => ?_⟩
    · rintro ⟨_, ⟨⟩, hdisplay⟩
      exact AllInstructions.effect_dirty hdisplay
    · obtain ⟨hfb, hdirty⟩ := AllInstructions.keepsDisplay_effect (s := s.beginCycle) (hno i rfl)
      exact ⟨hdirty, hfb⟩

end Sys2Proof.Cycle
end

section
/-! Proofs of the statements about reset, the loader and the framebuffer port (20_memory.md R42, 40_cycle.md R59, R60,
70_reset_and_hazards.md R114, R115). -/

namespace Sys2Proof.Session

open Sys2Proof.Machine Sys2Proof.Safety

/-! ### Memory after reset (20_memory.md R35, R36) -/

theorem read_hostReset (s : State) (a : Nat) : (hostReset s).mem.read a = Config.params.font.getD a 0 := rfl

theorem font_length : Config.params.font.length = 80 := rfl

/-! ### When the loader answers (R41, R42, R60) -/

section Loader
variable {s : State} {img : List Byte}

theorem hostLoad_before_first_cycle (hout : s.statusOut = .noCycle) (hload : ∀ n, s.load ≠ .tooLarge n) :
    hostLoad img s = .next (s.loadImage img) := by
  rw [hostLoad, State.beforeFirstCycle, hout, if_pos (by decide)]
  cases h : s.load with
  | awaitingImage | loaded => rfl
  | tooLarge n => exact absurd h (hload n)

theorem hostLoad_after_a_cycle (hout : s.statusOut ≠ .noCycle) : hostLoad img s = .refused .noHostMove := by
  rw [hostLoad, State.beforeFirstCycle, if_neg (by simpa using hout)]

theorem hostLoad_tooLarge {n : Nat} (hload : s.load = .tooLarge n) : hostLoad img s = .refused .noHostMove := by
  unfold hostLoad
  rw [hload]
  exact ite_self _

/-- Every cycle leaves a status. -/
theorem step_statusOut_ne_noCycle {u : State} (h : step s = .next u) : u.statusOut ≠ .noCycle := by
  rcases Effects.step_cases h with ⟨record, -, rfl⟩ | ⟨-, -, w, -, rfl⟩ | ⟨-, i, -, rfl⟩ <;>
    rw [Cycle.endCycle_statusOut]
  · exact nofun
  · exact nofun
  · rcases Effects.effect_statusOut i s.beginCycle with hout | hout <;> rw [hout] <;> exact nofun

end Loader

/-! ### The statements -/

/-- Settles O55: an empty memory list reads as the font and then 0, and everything else is reset's literal. -/
theorem resetReinitializesEverything : Obligations.ResetReinitializesEverything := by
  intro s
  refine ⟨rfl, fun r => ?_, rfl, rfl, fun k => ?_, rfl, rfl, fun px py => pixel_blank px py, rfl, rfl, rfl,
    fun a ha _ => ?_, rfl⟩
  · exact Vector.getElem_replicate r.isLt
  · exact Vector.getElem_replicate k.isLt
  · rw [read_hostReset, List.getD_eq_default]
    rw [font_length]
    exact ha

/-- Settles O56: before the first cycle the loader takes any image, and the three ranges of its length are the cases. -/
theorem loaderCopiesTheImageOrNeverStarts : Obligations.LoaderCopiesTheImageOrNeverStarts := by
  intro img s hout hload
  have hanswers := hostLoad_before_first_cycle (img := img) hout hload
  have hnotLoaded := fun t => (Cycle.cyclesNeedALoadedRunningBlock t).1
  rcases s.loadImage_cases img with ⟨hlen, himg⟩ | ⟨hlen, himg⟩ | ⟨hpos, hlen, himg⟩ <;> rw [himg] at hanswers
  · exact ⟨fun _ _ hle => absurd hlen (Nat.not_lt.2 hle),
      fun _ => ⟨_, hanswers, rfl, hnotLoaded _ nofun, fun _ => hostLoad_tooLarge rfl⟩, fun h0 => by omega⟩
  · exact ⟨fun _ hpos => absurd hlen (Nat.ne_of_gt hpos), fun hgt => by omega,
      fun _ => ⟨_, hanswers, rfl, hnotLoaded _ nofun⟩⟩
  · refine ⟨fun hs _ _ => ?_, fun hgt => absurd hgt (Nat.not_lt.2 hlen), fun h0 => absurd h0 (Nat.ne_of_gt hpos)⟩
    have hfits : 0x200 + img.length ≤ 4096 := by omega
    refine ⟨_, hanswers, rfl, Memory.wf_copyImage hs hfits, fun k hk => ?_, fun a ha => ?_, rfl⟩
    · exact (Memory.read_copyImage hs hfits _).trans (by
        rw [if_pos ⟨Nat.le_add_right _ _, by omega⟩, Nat.add_sub_cancel_left])
    · exact (Memory.read_copyImage hs hfits a).trans (if_neg (by omega))

/-- Settles O57: every cycle leaves a status and reset leaves none, and that is what the loader asks. -/
theorem hostLoadsOnlyBeforeTheFirstCycle : Obligations.HostLoadsOnlyBeforeTheFirstCycle := by
  intro img s
  exact ⟨fun u h => hostLoad_after_a_cycle (step_statusOut_ne_noCycle h), _,
    hostLoad_before_first_cycle (s := hostReset s) rfl nofun⟩

/-- Settles O58: y * 64 + x has quotient y and remainder x. -/
theorem framebufferPortIsRowMajor : Obligations.FramebufferPortIsRowMajor := by
  intro s x y
  have hlt : y.val * 64 + x.val < 2048 := by omega
  rw [fbPort, BitVec.getLsbD_ofFnLE, dif_pos hlt]
  congr 1
  · exact Fin.ext (show (y.val * 64 + x.val) % 64 = x.val by omega)
  · exact Fin.ext (show (y.val * 64 + x.val) / 64 = y.val by omega)

end Sys2Proof.Session
end
